-- ==== Sys2Proof/Word.lean ====
section
/-! DEFINITION. The words SLIPCORE moves: bytes, 32-bit command and response words, 14-bit counts, and what the host
puts on the command port (10_state.md, 20_memory.md R64 and R65, 30_encoding.md R85 and R89). -/

namespace Sys2Proof

/-- A byte, 0..255 (R19). -/
abbrev Byte := BitVec 8

/-- A command word or a response word: 32 bits, bit 0 least significant (R65). -/
abbrev Word := BitVec 32

/-- A size counter or count field, `CW` = 14 bits wide (R12). -/
abbrev Count := BitVec 14

/-- The count a natural number stands for. Every use is at a number the rules bound by BUF_SIZE, so none wraps (R12). -/
abbrev count (n : Nat) : Count := BitVec.ofNat 14 n

/-- One item the host puts on the command port, in the order it puts them there: a command word (R85), or one byte of
an ENC_BLOCK payload on the port's data lane (R89). -/
inductive PortItem where
  | word (w : Word)
  | byte (b : Byte)
deriving DecidableEq, Repr

end Sys2Proof
end

