-- ==== Sys2Proof/Syntax.lean ====
section
/-! DEFINITION. The commands: one constructor per row of spec/opcode_table.json (30_encoding.md R87). -/

namespace Sys2Proof

/-- A legal SLIPCORE command with its operands (R86 to R89). -/
inductive Instr where
  /-- DEC_FEED: BYTE [7:0] is fed to the incremental decoder (R190, R191). -/
  | decFeed (byte : Byte)
  /-- ENC_PUT: BYTE [7:0] is put into the incremental encoder's frame (R210, R211). -/
  | encPut (byte : Byte)
  /-- ENC_END: closes the incremental encoder's frame (R214, R215). -/
  | encEnd
  /-- ENC_BLOCK: LEN [15:0] and the LEN payload bytes that follow the word (R89, R130, R131). -/
  | encBlock (len : BitVec 16) (payload : List Byte)
  /-- DEC_BLOCK: CAP [27:14] and HINT [13:0] (R150, R158). -/
  | decBlock (cap hint : Count)
deriving DecidableEq, Repr

end Sys2Proof
end

