-- ==== Sys2Proof/WellFormed.lean ====
section
/-! DEFINITION. Which command terms are commands: the one condition the spec puts on an operand that its field's width
does not already say. -/

namespace Sys2Proof

/-- An ENC_BLOCK's payload has exactly LEN bytes (30_encoding.md R89: "a model takes the operand as a list with
`len(P) = L` as a well-formedness condition"). Every other operand is a field of its own width (R88). -/
def Instr.wf : Instr → Bool
  | .decFeed _ => true
  | .encPut _ => true
  | .encEnd => true
  | .encBlock len payload => payload.length == len.toNat
  | .decBlock _ _ => true

end Sys2Proof
end

