-- ==== Sys2Proof/Decode.lean ====
section
/-! DEFINITION. Command words: the decoder (30_encoding.md R86 to R91), total and rejecting by name, and the encoder
written from the same tables; the opcode table's match and mask values (R87). -/

namespace Sys2Proof

/-! ### Fields of a command word (R86) -/

/-- OPC, bits [31:28]. -/
def Word.opc (w : Word) : BitVec 4 := w.extractLsb' 28 4

/-- BYTE, bits [7:0] of format CB. -/
def Word.byteField (w : Word) : Byte := w.extractLsb' 0 8

/-- The reserved bits [27:8] of format CB. -/
def Word.reservedCB (w : Word) : BitVec 20 := w.extractLsb' 8 20

/-- The reserved bits [27:0] of format CN. -/
def Word.reservedCN (w : Word) : BitVec 28 := w.extractLsb' 0 28

/-- The reserved bits [27:16] of format CL. -/
def Word.reservedCL (w : Word) : BitVec 12 := w.extractLsb' 16 12

/-- LEN, bits [15:0] of format CL. -/
def Word.lenField (w : Word) : BitVec 16 := w.extractLsb' 0 16

/-- CAP, bits [27:14] of format CD. -/
def Word.capField (w : Word) : Count := w.extractLsb' 14 14

/-- HINT, bits [13:0] of format CD. -/
def Word.hintField (w : Word) : Count := w.extractLsb' 0 14

/-- What one command word spells (R91): one of the five commands with the operands the word holds, or no command. -/
inductive CommandWord where
  | decFeed (byte : Byte)
  | encPut (byte : Byte)
  | encEnd
  | encBlock (len : BitVec 16)
  | decBlock (cap hint : Count)
  | illegal
deriving DecidableEq, Repr

/-- `Decode(w)` of R91, a total function on 32-bit words. -/
def decodeWord (w : Word) : CommandWord :=
  if w.opc = 0x1#4 then
    if w.reservedCB = 0 then .decFeed w.byteField else .illegal
  else if w.opc = 0x2#4 then
    if w.reservedCB = 0 then .encPut w.byteField else .illegal
  else if w.opc = 0x3#4 then
    if w.reservedCN = 0 then .encEnd else .illegal
  else if w.opc = 0x4#4 then
    if w.reservedCL = 0 then .encBlock w.lenField else .illegal
  else if w.opc = 0x5#4 then .decBlock w.capField w.hintField
  else .illegal

/-! ### From the command port to a command -/

/-- What stands next on the command port. -/
inductive Fetched where
  /-- Nothing: the host has issued no further command (R18). -/
  | nothing
  /-- A legal command with all its payload bytes, and the items behind it (R85, R89). -/
  | command (i : Instr) (rest : List PortItem)
  /-- A word that spells no command, and the items behind the word: it consumes no payload byte (R90). -/
  | illegal (w : Word) (rest : List PortItem)
  /-- A payload byte where a command word has to stand: the host supplied more bytes than LEN says. -/
  | strayByte (b : Byte)
  /-- A legal ENC_BLOCK word that is not followed by LEN bytes: the host supplied too few. -/
  | payloadMissing (len : BitVec 16)
deriving DecidableEq, Repr

/-- `n` more payload bytes from the port, behind those already taken (kept last first). -/
def takeMore : Nat → List PortItem → List Byte → Option (List Byte × List PortItem)
  | 0, items, taken => some (taken.reverse, items)
  | n + 1, .byte b :: items, taken => takeMore n items (b :: taken)
  | _ + 1, _, _ => none

/-- The first `n` items of the port as payload bytes, with the items behind them; none where one of them is missing
or is a command word (R89). -/
def takePayload (n : Nat) (items : List PortItem) : Option (List Byte × List PortItem) := takeMore n items []

/-- A word and the items behind it, read as a command (R85, R89, R90, R91). -/
def decodeAt (w : Word) (items : List PortItem) : Fetched :=
  match decodeWord w with
  | .decFeed byte => .command (.decFeed byte) items
  | .encPut byte => .command (.encPut byte) items
  | .encEnd => .command .encEnd items
  | .encBlock len =>
    match takePayload len.toNat items with
    | some (payload, rest) => .command (.encBlock len payload) rest
    | none => .payloadMissing len
  | .decBlock cap hint => .command (.decBlock cap hint) items
  | .illegal => .illegal w items

/-- The decoder: what stands next on the command port. Total on any items. -/
def decode : List PortItem → Fetched
  | [] => .nothing
  | .byte b :: _ => .strayByte b
  | .word w :: items => decodeAt w items

/-! ### The encoder -/

/-- A command's word (R86, R98): OPC, the reserved zeros and the operand fields. -/
def encodeWord : Instr → Word
  | .decFeed byte => 0x1#4 ++ (0#20 ++ byte)
  | .encPut byte => 0x2#4 ++ (0#20 ++ byte)
  | .encEnd => 0x3#4 ++ 0#28
  | .encBlock len _ => 0x4#4 ++ (0#12 ++ len)
  | .decBlock cap hint => 0x5#4 ++ (cap ++ hint)

/-- The payload bytes that follow a command's word (R89). -/
def Instr.payload : Instr → List Byte
  | .decFeed _ => []
  | .encPut _ => []
  | .encEnd => []
  | .encBlock _ payload => payload
  | .decBlock _ _ => []

/-- What the host puts on the command port to issue a command: its word, then its payload bytes (R85, R89). -/
def encode (i : Instr) : List PortItem := .word (encodeWord i) :: i.payload.map .byte

/-! ### The opcode table (R87) -/

/-- A row of the opcode table: a word selects the row's command when `w AND mask = matchBits`. -/
structure OpcodeRow where
  mnemonic  : String
  matchBits : Word
  mask      : Word
deriving DecidableEq, Repr

/-- Whether a word selects a row (R87). -/
def OpcodeRow.selects (r : OpcodeRow) (w : Word) : Bool := w &&& r.mask == r.matchBits

def rowDecFeed  : OpcodeRow := ⟨"DEC_FEED", 0x10000000, 0xFFFFFF00⟩
def rowEncPut   : OpcodeRow := ⟨"ENC_PUT", 0x20000000, 0xFFFFFF00⟩
def rowEncEnd   : OpcodeRow := ⟨"ENC_END", 0x30000000, 0xFFFFFFFF⟩
def rowEncBlock : OpcodeRow := ⟨"ENC_BLOCK", 0x40000000, 0xFFFF0000⟩
def rowDecBlock : OpcodeRow := ⟨"DEC_BLOCK", 0x50000000, 0xF0000000⟩

/-- The table of R87, in its order. -/
def opcodeTable : List OpcodeRow := [rowDecFeed, rowEncPut, rowEncEnd, rowEncBlock, rowDecBlock]

/-- The row of a command. -/
def Instr.row : Instr → OpcodeRow
  | .decFeed _ => rowDecFeed
  | .encPut _ => rowEncPut
  | .encEnd => rowEncEnd
  | .encBlock _ _ => rowEncBlock
  | .decBlock _ _ => rowDecBlock

/-! ### One instruction given as a number, for the host -/

/-- `n` bytes of the number `v`, least significant first. -/
def bytesOf : Nat → Nat → List Byte
  | 0, _ => []
  | n + 1, v => BitVec.ofNat 8 v :: bytesOf n (v / 256)

/-- The payload length a word announces: LEN of a legal ENC_BLOCK, else 0 (R85). -/
def payloadLength (w : Word) : Nat :=
  match decodeWord w with
  | .encBlock len => len.toNat
  | _ => 0

/-- An instruction whose `nbits` bits are `w` (every bit above them 0), laid out on the command port: the word is bits
31..0, payload byte k is bits 32+8k+7..32+8k. -/
def tableItems (nbits w : Nat) : List PortItem :=
  let v := w % 2 ^ nbits
  .word (BitVec.ofNat 32 v) :: (bytesOf (payloadLength (BitVec.ofNat 32 v)) (v / 2 ^ 32)).map .byte

/-- The instruction the decoder reads from the opcode-table word `w` of `nbits` bits. -/
def decodeTableWord (nbits w : Nat) : Option Instr :=
  match decode (tableItems nbits w) with
  | .command i _ => some i
  | _ => none

end Sys2Proof
end

