-- ==== Sys2Proof/Config.lean ====
section
/-! DEFINITION. What is fixed when the block is built (00_scope.md R9 to R12), the type of the channel's error values,
and the free values: constants with no body, so that nothing can be proved about their value. -/

namespace Sys2Proof

/-- The build parameter BUF_SIZE with its legal range (R9). The bounds travel with the number, so that a machine with
an illegal BUF_SIZE cannot be written down. -/
structure Config where
  bufSize : Nat
  four_le : 4 ≤ bufSize
  le_max  : bufSize ≤ 16383
deriving DecidableEq, Repr

/-- The default build: BUF_SIZE = 2048, the source's reference value (R9, decision D8). -/
def Config.reference : Config := ⟨2048, by decide, by decide⟩

/-- MIN_FRAME, the smallest payload RXI delivers (R10). -/
def Config.minFrame : Nat := 2

/-- FREE VALUE (log 2). Which numbers besides 0 stand for an error value the channel may report. -/
opaque Config.chanErrExists : Nat → Bool

/-- ChanErr, the type of the channel's error values (R11): opaque. It has one value at least, and which others it has, and
so how many, is left open (log 2). SLIPCORE never inspects, compares or creates one. -/
structure ChanErr where
  tag   : Nat
  legal : tag = 0 ∨ Config.chanErrExists tag = true
deriving DecidableEq, Repr

/-- The one error value that is known to exist (log 2). -/
def ChanErr.first : ChanErr := ⟨0, .inl rfl⟩

/-- The three accumulation buffers (R60). -/
inductive BufferId where
  | te
  | id
  | bd
deriving DecidableEq, Repr

/-- FREE VALUE (log 3). What a buffer byte reads as that no command has written (R41: unspecified). -/
opaque Config.unwrittenByte : BufferId → Nat → Byte

/-- FREE VALUE (log 4). The count the channel answers a ChanWrite with, where `State.writeAnswers` gives no answer:
the k-th such draw, before it is brought within the channel's duty n <= len(w) (R15). -/
opaque Config.freeWriteCount : Nat → Nat

/-- FREE VALUE (log 4). The error value of the same answer (R15: none or any ChanErr). -/
opaque Config.freeWriteErr : Nat → Option ChanErr

/-- FREE VALUE (log 8). Whether the channel answers the read of the k-th draw at all, where `State.laterReads` is free. -/
opaque Config.freeReadAnswered : Nat → Bool

/-- FREE VALUE (log 8). The bytes of that answer, before they are brought within the channel's duty (R15). -/
opaque Config.freeReadChunk : Nat → List Byte

/-- FREE VALUE (log 8). The error value of that answer. -/
opaque Config.freeReadErr : Nat → Option ChanErr

end Sys2Proof
end

