-- ==== Sys2Proof/Machine/State.lean ====
section
/-! DEFINITION. The state SLIPCORE holds (10_state.md R30 to R43), the inputs it is given and the trace it leaves
(00_scope.md R14 to R17), its status codes' names, and the reasons a step can stop. -/

namespace Sys2Proof.Machine

/-- The bytes of one accumulation buffer that some command has written, by index, strictly rising. An index that is
not listed holds a byte nothing has written; its value is unspecified (R41). -/
abbrev Memory := List Host.Cell

/-- An escape state: NORMAL = 0, ESCAPED = 1 (R34, R35, decision D11; the numbers are never visible). -/
inductive EscState where
  | normal
  | escaped
deriving DecidableEq, Repr

/-- The statuses a response can carry (60_exceptions.md R231). -/
inductive Status where
  | ok
  | frame
  | noData
  | bufferOverflow
  | unknownEscapedByte
  | channelError
  | illegalCommand
deriving DecidableEq, Repr

/-- A response: the response word, its data list, and the channel's error value that goes with CHANNEL_ERROR (R92). -/
structure Response where
  word : Word
  data : List Byte
  err  : Option ChanErr
deriving DecidableEq, Repr

/-- One item of the trace (R17, R22). A channel request stands there from the moment it is made; the channel's answer
follows it, if one comes. -/
inductive TraceItem where
  /-- The request ChanRead(hint) (R96). -/
  | chanRead (hint : Count)
  /-- The channel's answer (chunk, err) to the read before it. -/
  | readAnswer (chunk : List Byte) (err : Option ChanErr)
  /-- The request ChanWrite(w) (R97). -/
  | chanWrite (w : List Byte)
  /-- The channel's answer (n, err) to the write before it. -/
  | writeAnswer (n : Nat) (err : Option ChanErr)
  /-- The event RxFrame(p) (R94). -/
  | rxFrame (p : List Byte)
  /-- The event TxFrame(w) (R95). -/
  | txFrame (w : List Byte)
  /-- A command's response (R92). -/
  | response (r : Response)
deriving DecidableEq, Repr

/-- The channel's answer to a ChanRead (R15, R96). -/
structure ReadAnswer where
  chunk : List Byte
  err   : Option ChanErr
deriving DecidableEq, Repr

/-- How the channel goes on behind the read answers that are listed (R15, R171; log 8). `none` is a read it never
answers. -/
inductive LaterReads where
  /-- It never answers again: R171 (a). -/
  | silent
  /-- It gives these answers, one after another, over and over: a supply with no end, R171 (b). -/
  | again (first : Option ReadAnswer) (more : List (Option ReadAnswer))
  /-- Any answers, or none: free values. -/
  | free
deriving DecidableEq, Repr

/-- The channel's answer to a ChanWrite (R15, R97). -/
structure WriteAnswer where
  n   : Nat
  err : Option ChanErr
deriving DecidableEq, Repr

/-- SLIPCORE has no trap, no stuck state and no race: its errors are responses, after which it goes on (60_exceptions.md
R236). So no step ends in a fault, and the type has no constructor. -/
inductive Fault where
deriving DecidableEq, Repr

/-- Why a step is refused: but for `notModelled`, each constructor is a run to which the spec itself gives no meaning
(93_implementation_defined.md section 4: "A run in which one of these is broken has no meaning in the model (refuse)"). -/
inductive Refusal where
  /-- Raised by an arm of `exec` for an instruction that has no meaning yet. Safe. No arm does. -/
  | notModelled (mnemonic : String)
  /-- Raised by `advance` while no reset has been asserted since power-on (R261, duty A3). Safe. -/
  | notResetYet
  /-- Raised by `acceptCommand` where a payload byte stands in a command word's place (R269, duty A2). Safe. -/
  | strayPayloadByte
  /-- Raised by `acceptCommand` where a legal ENC_BLOCK word is not followed by LEN bytes (R89, R269, duty A2). Safe. -/
  | payloadNotSupplied
  /-- Raised by `State.chanRead` where the channel's chunk is longer than the hint (R15, duty A4). Safe. -/
  | readLongerThanHint
  /-- Raised by `State.chanWrite` where the channel's count is larger than the bytes it was given (R15, duty A5). Safe. -/
  | writeCountTooLarge
deriving DecidableEq, Repr

/-- The whole machine. The first group is the build's parameter; the next four are the architectural state, exactly the
elements of R32 to R36; then the inputs (reset, the host's commands, the channel's answers), the trace, and what is the
model's own: a read that is not answered, and a counter of free values. -/
structure State where
  /-- BUF_SIZE, fixed when the block is built (R9, R44). No step changes it. -/
  cfg : Config
  /-- R32: a command is in progress. -/
  busy : Bool
  /-- R32, R152: the effective CAP of the DEC_BLOCK in progress. -/
  opCap : Count
  /-- R32, R152: the effective HINT of the DEC_BLOCK in progress. -/
  opHint : Count
  /-- R33: TXI's accumulation buffer. -/
  teBuf : Memory
  /-- R33: the valid bytes of TXI's frame; 0 where no frame is open. -/
  teSize : Count
  /-- R34: RXI's escape state. -/
  idState : EscState
  /-- R34: RXI's accumulation buffer. -/
  idBuf : Memory
  /-- R34: the valid bytes of RXI's frame. -/
  idSize : Count
  /-- R35: RXB has seen the first END of the session. -/
  bdSynced : Bool
  /-- R35: RXB's escape flag. -/
  bdEsc : EscState
  /-- R35: RXB's accumulation buffer. -/
  bdBuf : Memory
  /-- R35: the valid bytes of RXB's partial frame. -/
  bdSize : Count
  /-- R36: the bytes received from the channel and not yet scanned, in arrival order. -/
  bdCache : List Byte
  /-- THE MODEL'S OWN. The DEC_BLOCK in progress waits for an answer to a read that the channel does not give (R171 (a);
  log 8). -/
  readPending : Bool
  /-- INPUT. Whether a reset has been asserted since power was applied (R261). -/
  hasReset : Bool
  /-- INPUT. When the reset input is asserted: after that many more steps, then after that many more, and so on (R260,
  R262). -/
  resetIn : List Nat
  /-- INPUT. What the host puts on the command port, in order (R15, R85, R89). -/
  port : List PortItem
  /-- INPUT. The channel's answers to the reads to come, in order; `none` is a read it never answers (R15, R171). -/
  readAnswers : List (Option ReadAnswer)
  /-- INPUT. How the channel goes on behind those answers. -/
  laterReads : LaterReads
  /-- INPUT. The channel's answers to the writes to come, in order; behind the last one an answer is a free value (R15,
  R16). -/
  writeAnswers : List WriteAnswer
  /-- The observation of the run so far, oldest item first (R17). -/
  trace : List TraceItem
  /-- THE MODEL'S OWN. How many free channel answers have been drawn (log 4). -/
  freeDraws : Nat
deriving DecidableEq, Repr

/-- The machine right after reset (R43, R260), built with the default BUF_SIZE (R9), with no input placed and nothing
observed yet. `opCap` and `opHint` are 0 here (DESIGN CHOICE, log 5: the spec leaves them unspecified); the buffers
list no written byte, so every byte of theirs is a free value (log 3). -/
def State.reset : State where
  cfg := Config.reference
  busy := false
  opCap := 0
  opHint := 0
  teBuf := []
  teSize := 0
  idState := .normal
  idBuf := []
  idSize := 0
  bdSynced := false
  bdEsc := .normal
  bdBuf := []
  bdSize := 0
  bdCache := []
  readPending := false
  hasReset := true
  resetIn := []
  port := []
  readAnswers := []
  laterReads := .silent
  writeAnswers := []
  trace := []
  freeDraws := 0

end Sys2Proof.Machine
end

