-- ==== Sys2Proof/Machine/Ops.lean ====
section
/-! DEFINITION. The named operations every command is written over: the accumulation buffers (20_memory.md R61, R62),
the response and the raising of an error (30_encoding.md R92, 60_exceptions.md R236), events and channel requests
(R94 to R97), and the reset input (70_reset_and_hazards.md R260). -/

namespace Sys2Proof.Machine

/-! ### Accumulation buffers -/

/-- The canonical form: indexes strictly rising. -/
abbrev Memory.wf (m : Memory) : Prop := m.Pairwise fun c d => c.1 < d.1

/-- The byte some command wrote at index `a`, if one did. -/
def Memory.find : Memory → Nat → Option Byte
  | [], _ => none
  | (k, v) :: m, a => if k = a then some v else find m a

/-- `b[a] <- v` (R21). -/
def Memory.write : Memory → Nat → Byte → Memory
  | [], a, v => [(a, v)]
  | (k, x) :: m, a, v =>
    if a < k then (a, v) :: (k, x) :: m
    else if a = k then (a, v) :: m
    else (k, x) :: write m a v

/-- The writes of `Append(b, k, v)`: `b[k + i] <- v[i]` for each i, in order (R61). -/
def Memory.append : Memory → Nat → List Byte → Memory
  | m, _, [] => m
  | m, k, v :: vs => append (m.write k v) (k + 1) vs

/-- The byte at index `a` of buffer `b`: what was written there, else a free value (R41, log 3). -/
def Memory.byte (b : BufferId) (m : Memory) (a : Nat) : Byte := (m.find a).getD (Config.unwrittenByte b a)

/-- The prefix read `b[0:k)` (R62). -/
def Memory.readPrefix (b : BufferId) (m : Memory) (k : Nat) : List Byte := (List.range k).map (m.byte b)

/-- TXI's frame so far, `te_buf[0:te_size)`. -/
def State.teFrame (s : State) : List Byte := s.teBuf.readPrefix .te s.teSize.toNat

/-- RXI's frame so far, `id_buf[0:id_size)`. -/
def State.idFrame (s : State) : List Byte := s.idBuf.readPrefix .id s.idSize.toNat

/-- RXB's partial frame, `bd_buf[0:bd_size)`. -/
def State.bdFrame (s : State) : List Byte := s.bdBuf.readPrefix .bd s.bdSize.toNat

/-- `Append(te_buf, te_size, v)` (R61). The caller has checked the capacity. -/
def State.teAppend (v : List Byte) (s : State) : State :=
  { s with teBuf := s.teBuf.append s.teSize.toNat v, teSize := count (s.teSize.toNat + v.length) }

/-- `id_buf[id_size] <- v; id_size <- id_size + 1`, an append of one byte (R61, R191). -/
def State.idAppend (v : Byte) (s : State) : State :=
  { s with idBuf := s.idBuf.append s.idSize.toNat [v], idSize := count (s.idSize.toNat + 1) }

/-- `bd_buf[bd_size] <- v; bd_size <- bd_size + 1`, an append of one byte (R61, R161). -/
def State.bdAppend (v : Byte) (s : State) : State :=
  { s with bdBuf := s.bdBuf.append s.bdSize.toNat [v], bdSize := count (s.bdSize.toNat + 1) }

/-! ### The trace: events, responses, errors -/

/-- Appends one item to the trace (R22). -/
def State.log (item : TraceItem) (s : State) : State := { s with trace := s.trace ++ [item] }

/-- The code of a status, the STATUS field [31:28] (R231). -/
def Status.code : Status → BitVec 4
  | .ok => 0x0
  | .frame => 0x1
  | .noData => 0x2
  | .bufferOverflow => 0x3
  | .unknownEscapedByte => 0x4
  | .channelError => 0x5
  | .illegalCommand => 0x6

/-- The response word: STATUS [31:28], LEN [27:14], AUX [13:0] (R92). -/
def responseWord (st : Status) (len aux : Count) : Word := st.code ++ (len ++ aux)

/-- `respond(STATUS, len, aux, data)`, with err attached: the command's last act, which leaves SLIPCORE idle (R16, R22,
R92, R152). -/
def State.respond (st : Status) (len aux : Count) (data : List Byte) (err : Option ChanErr) (s : State) : State :=
  { s with busy := false, trace := s.trace ++ [.response ⟨responseWord st len aux, data, err⟩] }

/-- `respond(OK, 0, 0)`. -/
def State.respondOk (s : State) : State := s.respond .ok 0 0 [] none

/-- Raising an error, the one operation for all of them: `raise E` is `respond(E, 0, 0)` after the state writes the
rule lists for E. No mode changes, nothing is saved, control goes nowhere (R22, R236). There is no return from an
error and nothing to restore (R237). -/
def State.raise (e : Status) (s : State) : State := s.respond e 0 0 [] none

/-! ### Channel requests -/

/-- A free answer to a read: none, or any bytes within the hint with any error (R15). -/
def State.freeRead (h : Count) (s : State) : Option ReadAnswer :=
  if Config.freeReadAnswered s.freeDraws then
    some ⟨(Config.freeReadChunk s.freeDraws).take h.toNat, Config.freeReadErr s.freeDraws⟩
  else none

/-- The channel's answer to the next read, none where it never answers, and the state with that answer taken (R15). Behind
the answers listed, the channel goes on as `laterReads` says (log 8). -/
def State.nextRead (h : Count) (s : State) : Option ReadAnswer × State :=
  match s.readAnswers with
  | a :: later => (a, { s with readAnswers := later })
  | [] =>
    match s.laterReads with
    | .silent => (none, s)
    | .again first more => (first, { s with readAnswers := more })
    | .free => (s.freeRead h, { s with freeDraws := s.freeDraws + 1 })

/-- `(chunk, err) <- ChanRead(h)` (R22, R96): the request is made, and the channel's answer goes to `k`. A read the channel
does not answer is pending, and the command waits for ever in the state it is in (R171). An answer longer than the hint
breaks the channel's duty (R15).
DESIGN CHOICE (log 8): that the answers to come are a list with a way to go on behind it, and that an answer comes in the
step of its request or never. -/
def State.chanRead (h : Count) (k : List Byte → Option ChanErr → State → Host.Outcome State Fault Refusal)
    (s : State) : Host.Outcome State Fault Refusal :=
  if s.readPending then .next s
  else
    let asked := (s.nextRead h).2.log (.chanRead h)
    match (s.nextRead h).1 with
    | none => .next { asked with readPending := true }
    | some a =>
      if a.chunk.length ≤ h.toNat then k a.chunk a.err (asked.log (.readAnswer a.chunk a.err))
      else .refused .readLongerThanHint

/-- The channel's answer to the write of `w` where none is placed: any count within its duty and any error (R15), a
free value, since no command but DEC_BLOCK waits for another agent (R16). -/
def State.freeWrite (w : List Byte) (s : State) : WriteAnswer :=
  ⟨min (Config.freeWriteCount s.freeDraws) w.length, Config.freeWriteErr s.freeDraws⟩

/-- The request of a write and its answer, in the trace. -/
def State.written (w : List Byte) (n : Nat) (err : Option ChanErr) (s : State) : State :=
  (s.log (.chanWrite w)).log (.writeAnswer n err)

/-- `(n, err) <- ChanWrite(w)` (R22, R97): the request is made, and the channel's answer goes to `k`. A count above the
bytes given breaks the channel's duty (R15). -/
def State.chanWrite (w : List Byte) (k : Nat → Option ChanErr → State → Host.Outcome State Fault Refusal)
    (s : State) : Host.Outcome State Fault Refusal :=
  match s.writeAnswers with
  | [] =>
    let a := s.freeWrite w
    k a.n a.err (State.written w a.n a.err { s with freeDraws := s.freeDraws + 1 })
  | a :: later =>
    if a.n ≤ w.length then k a.n a.err (State.written w a.n a.err { s with writeAnswers := later })
    else .refused .writeCountTooLarge

/-! ### The reset input -/

/-- The reset input is asserted: every state element takes its reset value, in all five units at once (R43, R260),
whether or not a command is in progress (R262). The build, the host's and the channel's side and the trace are not
state of SLIPCORE and stay (R263). -/
def State.assertReset (s : State) : State :=
  { s with
    busy := false, opCap := 0, opHint := 0
    teBuf := [], teSize := 0
    idState := .normal, idBuf := [], idSize := 0
    bdSynced := false, bdEsc := .normal, bdBuf := [], bdSize := 0, bdCache := [], readPending := false
    hasReset := true }

end Sys2Proof.Machine
end

