-- ==== Sys2Proof/Machine/Escaper.lean ====
section
/-! DEFINITION. ESCC, transmit direction: the five byte constants (30_encoding.md R80), the escape function and the
wire frame of a payload (40_escaper.md R110, R111). -/

namespace Sys2Proof.Machine

def byteFlush  : Byte := 0xFF
def byteEnd    : Byte := 0xC0
def byteEsc    : Byte := 0xDB
def byteEscEnd : Byte := 0xDC
def byteEscEsc : Byte := 0xDD

/-- `Esc(b)`: the wire bytes of one payload byte (R110). -/
def esc (b : Byte) : List Byte :=
  if b = byteEnd then [byteEsc, byteEscEnd]
  else if b = byteEsc then [byteEsc, byteEscEsc]
  else [b]

/-- The escaped payload, `concat(map Esc P)` (R111). -/
def escAll : List Byte → List Byte
  | [] => []
  | b :: p => esc b ++ escAll p

/-- The preamble FLUSH, END that opens every wire frame (R81, R212). -/
def preamble : List Byte := [byteFlush, byteEnd]

/-- `Frame(P)`: the wire frame of a payload (R81, R111). -/
def frame (p : List Byte) : List Byte := preamble ++ (escAll p ++ [byteEnd])

end Sys2Proof.Machine
end

