-- ==== Sys2Proof/Machine/Flags.lean ====
section
/-! DEFINITION. How the flags are computed: the escape-transition table both decoders take `id_state` and `bd_esc` from
(40_escaper.md R113), and RXB's sync flag (42_stream_reassembler.md R159). SLIPCORE has no condition codes (R38). -/

namespace Sys2Proof.Machine

/-- What a received byte asks its decoder to do (R113). -/
inductive Action where
  | boundary
  | enterEsc
  | store (v : Byte)
  | badEscape
deriving DecidableEq, Repr

/-- `EscStep(e, c)`: the action and the next escape state (R113). -/
def escStep (e : EscState) (c : Byte) : Action × EscState :=
  match e with
  | .normal =>
    if c = byteEnd then (.boundary, .normal)
    else if c = byteEsc then (.enterEsc, .escaped)
    else (.store c, .normal)
  | .escaped =>
    if c = byteEscEnd then (.store byteEnd, .normal)
    else if c = byteEscEsc then (.store byteEsc, .normal)
    else (.badEscape, .normal)

/-- The actions of a byte sequence and the escape state it ends in (R114, R115). -/
def escRun : EscState → List Byte → List Action × EscState
  | e, [] => ([], e)
  | e, c :: cs =>
    let r := escRun (escStep e c).2 cs
    ((escStep e c).1 :: r.1, r.2)

/-- `bd_synced` after a byte scanned while hunting: set by END, else unchanged (R159). -/
def syncAfter (c : Byte) : Bool := c == byteEnd

end Sys2Proof.Machine
end

