-- ==== Sys2Proof/Machine/Operands.lean ====
section
/-! DEFINITION. The effective operands of the commands (30_encoding.md R88, 42_stream_reassembler.md R152) and the bytes
an incremental-encoder command appends (44_incremental_encoder.md R211, R212, R215). BYTE and LEN are used as they
stand in the word. -/

namespace Sys2Proof.Machine

/-- `min(v, BUF_SIZE)` for an operand CAP or HINT (R88, R152). -/
def clampOperand (cfg : Config) (v : Count) : Count := count (min v.toNat cfg.bufSize)

/-- What a command puts before its own bytes: the preamble where no frame is open (R212). -/
def State.tePreamble (s : State) : List Byte := if s.teSize = 0 then preamble else []

/-- The bytes ENC_PUT appends (R211). -/
def State.putBytes (b : Byte) (s : State) : List Byte := s.tePreamble ++ esc b

/-- The bytes ENC_END appends (R215). -/
def State.endBytes (s : State) : List Byte := s.tePreamble ++ [byteEnd]

end Sys2Proof.Machine
end

