-- ==== Sys2Proof/Machine/BlockEncoder.lean ====
section
/-! DEFINITION. TXB, the block encoder: ENC_BLOCK (41_block_encoder.md R130 to R138). It holds no state (R37). -/

namespace Sys2Proof.Machine

/-- The status of a write's answer: OK, however short the count, unless the channel gives an error (R134). -/
def writeStatus : Option ChanErr → Status
  | none => .ok
  | some _ => .channelError

/-- ENC_BLOCK(P) (R131): the length of the whole wire frame is checked first (R132), then it goes to the channel in one
write (R133), whose answer is reported unchanged (R134). -/
def execEncBlock (p : List Byte) (s : State) : Host.Outcome State Fault Refusal :=
  if s.cfg.bufSize < (frame p).length then .next (s.raise .bufferOverflow)
  else s.chanWrite (frame p) fun n err s1 => .next (s1.respond (writeStatus err) (count n) 0 [] err)

end Sys2Proof.Machine
end

