-- ==== Sys2Proof/Machine/IncrementalDecoder.lean ====
section
/-! DEFINITION. RXI, the incremental decoder: DEC_FEED (43_incremental_decoder.md R190 to R200). -/

namespace Sys2Proof.Machine

/-- `Boundary` (R194): a frame of at least MIN_FRAME bytes is delivered, then the unit is `(NORMAL, empty)`. -/
def feedBoundary (s : State) : State :=
  let s1 := if Config.minFrame ≤ s.idSize.toNat then s.log (.rxFrame s.idFrame) else s
  State.respondOk { s1 with idSize := 0, idState := .normal }

/-- `EnterEsc` (R192): nothing is stored. -/
def feedEnterEsc (s : State) : State := State.respondOk { s with idState := .escaped }

/-- `Store(v)` (R192, R193): at a full buffer the frame is discarded. -/
def feedStore (v : Byte) (s : State) : State :=
  if s.idSize.toNat = s.cfg.bufSize then State.raise .bufferOverflow { s with idState := .normal, idSize := 0 }
  else State.respondOk (State.idAppend v { s with idState := .normal })

/-- `BadEscape` (R195): the malformed byte is not stored, the frame is discarded. -/
def feedBadEscape (s : State) : State := State.raise .unknownEscapedByte { s with idSize := 0, idState := .normal }

/-- DEC_FEED(c) (R191). -/
def execDecFeed (c : Byte) (s : State) : Host.Outcome State Fault Refusal :=
  match (escStep s.idState c).1 with
  | .boundary => .next (feedBoundary s)
  | .enterEsc => .next (feedEnterEsc s)
  | .store v => .next (feedStore v s)
  | .badEscape => .next (feedBadEscape s)

end Sys2Proof.Machine
end

