-- ==== Sys2Proof/Machine/IncrementalEncoder.lean ====
section
/-! DEFINITION. TXI, the incremental encoder: ENC_PUT and ENC_END (44_incremental_encoder.md R210 to R220). -/

namespace Sys2Proof.Machine

/-- Whether `v` more bytes would take TXI's frame past BUF_SIZE (R213, R216). -/
def State.teOverflows (v : List Byte) (s : State) : Bool := decide (s.cfg.bufSize < s.teSize.toNat + v.length)

/-- TXI's overflow: the open frame is discarded, nothing is appended or emitted (R213, R216). -/
def teDiscard (s : State) : State := State.raise .bufferOverflow { s with teSize := 0 }

/-- ENC_PUT(b) (R211). -/
def execEncPut (b : Byte) (s : State) : Host.Outcome State Fault Refusal :=
  if s.teOverflows (s.putBytes b) then .next (teDiscard s)
  else .next (s.teAppend (s.putBytes b)).respondOk

/-- The closed frame is emitted and TXI holds no frame (R215). -/
def teEmit (s : State) : State := State.respondOk { s.log (.txFrame s.teFrame) with teSize := 0 }

/-- ENC_END (R215). -/
def execEncEnd (s : State) : Host.Outcome State Fault Refusal :=
  if s.teOverflows s.endBytes then .next (teDiscard s)
  else .next (teEmit (s.teAppend s.endBytes))

end Sys2Proof.Machine
end

