-- ==== Sys2Proof/Machine/StreamReassembler.lean ====
section
/-! DEFINITION. RXB, the stream reassembler: DEC_BLOCK (42_stream_reassembler.md R150 to R173). The command's entry is
its meaning in `exec`; each of its micro-steps, one channel read or the scan of one byte (R151), is one step. -/

namespace Sys2Proof.Machine

/-- AUX of every DEC_BLOCK response: `len(bd_cache)` (R166). -/
def State.cacheCount (s : State) : Count := count s.bdCache.length

/-- DEC_BLOCK(CAP, HINT), its entry (R152): the operands are clamped and held, and the command is in progress. -/
def execDecBlock (cap hint : Count) (s : State) : Host.Outcome State Fault Refusal :=
  .next { s with busy := true, opCap := clampOperand s.cfg cap, opHint := clampOperand s.cfg hint }

/-- The micro-step of an empty cache: one read of the channel (R153). An error ends the command with the partial frame
reported and kept, and the bytes that came with it cached unscanned (R154); no bytes and no error ends it with NO_DATA
(R155); bytes go to the cache and the loop goes on (R156). -/
def decRead (s : State) : Host.Outcome State Fault Refusal :=
  s.chanRead s.opHint fun chunk err s1 =>
    let s2 := { s1 with bdCache := chunk }
    match err with
    | some e => .next (s2.respond .channelError s2.bdSize s2.cacheCount s2.bdFrame (some e))
    | none => if chunk = [] then .next (s1.respond .noData 0 0 [] none) else .next s2

/-- A byte scanned while hunting: discarded; an END opens the session's first frame (R159). -/
def huntByte (c : Byte) (s : State) : State := { s with bdSynced := syncAfter c }

/-- `Store(v)` (R161); at the command's capacity the frame is discarded and the command ends (R162). -/
def scanStore (v : Byte) (s : State) : State :=
  if s.opCap.toNat ≤ s.bdSize.toNat then
    State.respond .bufferOverflow 0 s.cacheCount [] none { s with bdSize := 0, bdEsc := .normal }
  else s.bdAppend v

/-- `BadEscape` (R163): the frame is discarded and the command ends. -/
def scanBadEscape (s : State) : State :=
  State.respond .unknownEscapedByte 0 s.cacheCount [] none { s with bdSize := 0 }

/-- `Boundary`: the frame is returned (R164), unless it is longer than this command's capacity (R165). -/
def scanBoundary (s : State) : State :=
  if s.opCap.toNat < s.bdSize.toNat then
    State.respond .bufferOverflow 0 s.cacheCount [] none { s with bdSize := 0 }
  else State.respond .frame s.bdSize s.cacheCount s.bdFrame none { s with bdSize := 0 }

/-- A byte scanned while synchronised: `bd_esc` takes the table's next state, then the action is performed (R160). -/
def syncedByte (c : Byte) (s : State) : State :=
  let s1 := { s with bdEsc := (escStep s.bdEsc c).2 }
  match (escStep s.bdEsc c).1 with
  | .boundary => scanBoundary s1
  | .enterEsc => s1
  | .store v => scanStore v s1
  | .badEscape => scanBadEscape s1

/-- A byte taken from the cache is handled (R157 to R165). -/
def scanByte (c : Byte) (s : State) : State := if s.bdSynced then syncedByte c s else huntByte c s

/-- One micro-step of the DEC_BLOCK in progress (R151, R153, R157, R158). -/
def decMicroStep (s : State) : Host.Outcome State Fault Refusal :=
  match s.bdCache with
  | [] => decRead s
  | c :: rest => .next (scanByte c { s with bdCache := rest })

end Sys2Proof.Machine
end

