-- ==== Sys2Proof/Machine/Dispatch.lean ====
section
/-! DEFINITION. One arm per command. -/

namespace Sys2Proof.Machine

def exec (i : Instr) (s : State) : Host.Outcome State Fault Refusal :=
  match i with
  | .decFeed byte => Sys2Proof.Machine.execDecFeed byte s
  | .encPut byte => Sys2Proof.Machine.execEncPut byte s
  | .encEnd => Sys2Proof.Machine.execEncEnd s
  | .encBlock _ payload => Sys2Proof.Machine.execEncBlock payload s
  | .decBlock cap hint => Sys2Proof.Machine.execDecBlock cap hint s

end Sys2Proof.Machine
end

