-- ==== Sys2Proof/Machine/Sequencer.lean ====
section
/-! DEFINITION. What SLIPCORE does next: accept a command when idle, go on with the DEC_BLOCK in progress, obey the
reset input (00_scope.md R16, 10_state.md R31, 70_reset_and_hazards.md R260 to R262). -/

namespace Sys2Proof.Machine

/-- A word that spells no command: its word is consumed, nothing else changes, and it is answered
`respond(ILLEGAL_COMMAND, 0, 0)` (R90, R235). -/
def rejectWord (s : State) : State := s.raise .illegalCommand

/-- SLIPCORE is idle: the next command on the port is accepted and performed. With no further command the run is at its
end and nothing changes (R18). A host that does not supply exactly LEN payload bytes gives a run no meaning (R269). -/
def acceptCommand (s : State) : Host.Outcome State Fault Refusal :=
  match decode s.port with
  | .nothing => .next s
  | .command i rest => exec i { s with port := rest }
  | .illegal _ rest => .next (rejectWord { s with port := rest })
  | .strayByte _ => .refused .strayPayloadByte
  | .payloadMissing _ => .refused .payloadNotSupplied

/-- One step with the reset input not asserted: nothing before the first reset (R261); a micro-step of the DEC_BLOCK in
progress (R151); else a command is accepted (R16). -/
def advance (s : State) : Host.Outcome State Fault Refusal :=
  if s.hasReset then if s.busy then decMicroStep s else acceptCommand s
  else .refused .notResetYet

/-- One step of the machine: a reset whose time has come is asserted instead of anything else (R260, R262). -/
def cycle (s : State) : Host.Outcome State Fault Refusal :=
  match s.resetIn with
  | [] => advance s
  | 0 :: later => .next { s.assertReset with resetIn := later }
  | (n + 1) :: later => advance { s with resetIn := n :: later }

/-- `s` with the items in front of its command port, idle and with no reset to come, so that the next step accepts
them. -/
def State.withPortItems (items : List PortItem) (s : State) : State :=
  { s with port := items ++ s.port, busy := false, hasReset := true, resetIn := [] }

end Sys2Proof.Machine
end

