-- ==== Sys2Proof/Machine/Step.lean ====
section
/-! DEFINITION. One step of the machine, and the placing of one instruction where the next step takes it. -/

namespace Sys2Proof.Machine

/-- One step: a command accepted and performed, one micro-step of a DEC_BLOCK, a reset, or nothing where no command is
issued. -/
def step (s : State) : Host.Outcome State Fault Refusal := cycle s

/-- `s` with the instruction whose `nbits` bits are `w` at the head of the command port (log 6). -/
def State.withFetchWord (s : State) (nbits w : Nat) : State := s.withPortItems (tableItems nbits w)

end Sys2Proof.Machine
end

