-- ==== Sys2Proof/Machine/Assembler.lean ====
section
/-! DEFINITION. The assembler's notation as data: which operands a line may have, what it encodes to, and the two
pseudo-instructions (30_encoding.md R98, R99). AssemblerText.lean reads it from text. -/

namespace Sys2Proof.Machine

/-- A line of assembler, its numbers as written (R98, R99). -/
inductive AsmLine where
  | decFeed (b : Nat)
  | encPut (b : Nat)
  | encEnd
  | encBlock (bs : List Nat)
  | decBlock (cap hint : Nat)
  | decFeeds (bs : List Nat)
  | encFrame (bs : List Nat)
deriving DecidableEq, Repr

/-- A number as a byte operand; out of range it is an assembly error (R98). -/
def asmByte (n : Nat) : Option Byte := if n ≤ 0xFF then some (BitVec.ofNat 8 n) else none

/-- A list of numbers as byte operands. -/
def asmBytes : List Nat → Option (List Byte)
  | [] => some []
  | n :: ns => (asmByte n).bind fun b => (asmBytes ns).map (b :: ·)

/-- A number as CAP or HINT (R98). -/
def asmCount (n : Nat) : Option Count := if n ≤ 16383 then some (count n) else none

/-- The commands a line stands for, in issue order, after the pseudo-instructions are expanded (R99); none is an
assembly error. -/
def AsmLine.expand : AsmLine → Option (List Instr)
  | .decFeed b => (asmByte b).map fun b => [.decFeed b]
  | .encPut b => (asmByte b).map fun b => [.encPut b]
  | .encEnd => some [.encEnd]
  | .encBlock bs =>
    if bs.length ≤ 65535 then (asmBytes bs).map fun p => [.encBlock (BitVec.ofNat 16 p.length) p] else none
  | .decBlock cap hint => (asmCount cap).bind fun c => (asmCount hint).map fun h => [.decBlock c h]
  | .decFeeds bs => (asmBytes bs).map fun p => p.map .decFeed
  | .encFrame bs => (asmBytes bs).map fun p => p.map .encPut ++ [.encEnd]

/-- What a program puts on the command port: the words of each line's commands, each with its payload bytes (R98). -/
def assemble : List AsmLine → Option (List PortItem)
  | [] => some []
  | l :: ls => l.expand.bind fun is => (assemble ls).map ((is.flatMap encode) ++ ·)

end Sys2Proof.Machine
end

