-- ==== Sys2Proof/Safety.lean ====
section
/-! DEFINITION. The terms claims are stated in: the states SLIPCORE can be in (10_state.md R40), the ends and hangs of a
run (00_scope.md R18, 42_stream_reassembler.md R171), runs of commands and of steps, and what a trace shows. -/

namespace Sys2Proof.Machine

/-! ### The invariant of R40 -/

/-- Every byte below `k` has been written, so that a prefix read below `k` shows no unspecified byte (R41). -/
def Memory.Written (m : Memory) (k : Nat) : Prop := ∀ a < k, (m.find a).isSome

/-- No index at or above `n` has been written: "an append never writes at index BUF_SIZE or beyond" (R61). -/
def Memory.Within (m : Memory) (n : Nat) : Prop := ∀ c ∈ m, c.1 < n

/-- An accumulation buffer with its size: canonical, inside BUF_SIZE, written below the size, the size within BUF_SIZE. -/
structure BufferInv (cfg : Config) (m : Memory) (size : Count) : Prop where
  wf      : m.wf
  within  : m.Within cfg.bufSize
  written : m.Written size.toNat
  bound   : size.toNat ≤ cfg.bufSize

/-- R40 item 1: TXI holds no frame, or one of at least 3 bytes that opens with the preamble. -/
structure TxiInv (s : State) : Prop where
  buffer : BufferInv s.cfg s.teBuf s.teSize
  closed : s.teSize = 0 ∨ 3 ≤ s.teSize.toNat
  opens  : s.teSize ≠ 0 → s.teFrame.take 2 = [0xFF, 0xC0]

/-- R40 items 3 to 5: RXB's partial frame fits, RXB holds nothing while it is hunting, the cache fits; the operands of a
DEC_BLOCK in progress are within BUF_SIZE (R152); and a read is pending only for a DEC_BLOCK with an empty cache (R153). -/
structure RxbInv (s : State) : Prop where
  buffer   : BufferInv s.cfg s.bdBuf s.bdSize
  hunting  : s.bdSynced = false → s.bdSize = 0 ∧ s.bdEsc = .normal
  cache    : s.bdCache.length ≤ s.cfg.bufSize
  operands : s.busy = true → s.opCap.toNat ≤ s.cfg.bufSize ∧ s.opHint.toNat ≤ s.cfg.bufSize
  pending  : s.readPending = true → s.busy = true ∧ s.bdCache = []

/-- What every state reachable from reset satisfies (R40). -/
structure Inv (s : State) : Prop where
  txi : TxiInv s
  rxi : BufferInv s.cfg s.idBuf s.idSize
  rxb : RxbInv s

/-! ### Where a run stands -/

/-- SLIPCORE has been reset and no reset is to come: the next step is SLIPCORE's own (R260, R261). -/
def State.running (s : State) : Prop := s.hasReset = true ∧ s.resetIn = []

/-- The end of a run: idle, and the host issues no further command (R18). -/
def State.finished (s : State) : Prop := s.busy = false ∧ s.port = []

/-- A read answered with at least one byte, no error and no more than the hint (R15, R156). -/
def BringsBytes (h : Count) (o : Option ReadAnswer) : Prop :=
  ∃ a, o = some a ∧ a.err = none ∧ a.chunk ≠ [] ∧ a.chunk.length ≤ h.toNat

/-- The reads listed are all answered with bytes. -/
def State.supplied (s : State) : Prop := ∀ o ∈ s.readAnswers, BringsBytes s.opHint o

/-- The channel answers every read with bytes, for ever (R171 (b)). -/
def State.suppliedForEver (s : State) : Prop :=
  s.supplied ∧ ∃ first more, s.laterReads = .again first more ∧ ∀ o ∈ first :: more, BringsBytes s.opHint o

/-- The bytes an answer brings, none where no answer comes. -/
def bytesOfAnswer (o : Option ReadAnswer) : List Byte := o.elim [] ReadAnswer.chunk

/-- The bytes RXB has still to scan: its cache, then what the channel's listed answers bring. -/
def State.stream (s : State) : List Byte := s.bdCache ++ s.readAnswers.flatMap bytesOfAnswer

/-- DEC_BLOCK commands on the port, each with its CAP and HINT. -/
def decBlocks (ds : List (Count × Count)) : List PortItem := ds.flatMap fun d => encode (.decBlock d.1 d.2)

/-- The reads listed are all answered, within the hint of each of these commands (R15, R152). -/
def State.answeredWithin (ds : List (Count × Count)) (s : State) : Prop :=
  ∀ o ∈ s.readAnswers, ∃ a, o = some a ∧ ∀ d ∈ ds, a.chunk.length ≤ min d.2.toNat s.cfg.bufSize

/-- An answer that ends a DEC_BLOCK by itself: an error, or no bytes (R154, R155). -/
def interrupts (o : Option ReadAnswer) : Bool := o.elim false fun a => a.err.isSome || a.chunk.isEmpty

/-! ### Runs -/

/-- Commands performed one after another (R70). -/
def execAll : List Instr → State → Host.Outcome State Fault Refusal
  | [], s => .next s
  | i :: is, s =>
    match exec i s with
    | .next t => execAll is t
    | .fault r => .fault r
    | .refused r => .refused r

/-- `n` steps of the machine. -/
abbrev runSteps (n : Nat) (s : State) : Host.Outcome State Fault Refusal := Host.Core.run Sys2Proof.core n s

/-- A run of the machine: some number of steps leads from one state to the other. -/
def Reaches (s t : State) : Prop := ∃ n, runSteps n s = .next t

/-- A machine just reset, of any build, with any inputs placed. -/
def Started (s : State) : Prop :=
  ∃ (cfg : Config) (resets : List Nat) (items : List PortItem) (reads : List (Option ReadAnswer))
    (later : LaterReads) (writes : List WriteAnswer),
    s = { State.reset with
            cfg := cfg, resetIn := resets, port := items, readAnswers := reads, laterReads := later
            writeAnswers := writes }

/-! ### What a trace shows -/

/-- The response with this word, data list and error value. -/
abbrev answered (w : Word) (data : List Byte) (err : Option ChanErr) : TraceItem := .response ⟨w, data, err⟩

/-- The response OK with nothing else, word 0x00000000. -/
abbrev answeredOk : TraceItem := answered 0x00000000 [] none

/-- Whether an item is a response. -/
def TraceItem.isResponse : TraceItem → Bool
  | .response _ => true
  | _ => false

/-- Whether an item is a read of the channel or its answer. -/
def TraceItem.isRead : TraceItem → Bool
  | .chanRead _ => true
  | .readAnswer _ _ => true
  | _ => false

/-- The response an item is. -/
def TraceItem.response? : TraceItem → Option Response
  | .response r => some r
  | _ => none

/-- The frame of an RxFrame event. -/
def TraceItem.rxFrame? : TraceItem → Option (List Byte)
  | .rxFrame p => some p
  | _ => none

/-- The frame of a TxFrame event. -/
def TraceItem.txFrame? : TraceItem → Option (List Byte)
  | .txFrame w => some w
  | _ => none

/-- STATUS, bits [31:28] of a response word (R92). -/
def Response.status (r : Response) : BitVec 4 := r.word.extractLsb' 28 4

/-- LEN, bits [27:14] of a response word (R92). -/
def Response.len (r : Response) : Count := r.word.extractLsb' 14 14

/-- AUX, bits [13:0] of a response word (R92). -/
def Response.aux (r : Response) : Count := r.word.extractLsb' 0 14

/-- Whether a response is one that DEC_FEED gives for an action of the escape table (R191, R197). -/
def Action.answeredBy (a : Action) (r : Response) : Prop :=
  r.data = [] ∧ r.err = none ∧
    match a with
    | .boundary => r.word = 0x00000000
    | .enterEsc => r.word = 0x00000000
    | .store _ => r.word = 0x00000000 ∨ r.word = 0x30000000
    | .badEscape => r.word = 0x40000000

/-- What a response says about the byte stream: status, LEN and data, where it is neither NO_DATA nor CHANNEL_ERROR
(R172). -/
def Response.verdict? (r : Response) : Option (BitVec 4 × Count × List Byte) :=
  if r.status = 0x2 ∨ r.status = 0x5 then none else some (r.status, r.len, r.data)

/-- What the responses of a trace say about the byte stream, in order. -/
def verdicts (items : List TraceItem) : List (BitVec 4 × Count × List Byte) :=
  items.filterMap fun x => x.response?.bind Response.verdict?

/-! ### Renaming the channel's error values -/

/-- The answer with its error value renamed. -/
def ReadAnswer.mapErr (f : ChanErr → ChanErr) (a : ReadAnswer) : ReadAnswer := { a with err := a.err.map f }

/-- The way the channel goes on with every error value in it renamed. -/
def LaterReads.mapErr (f : ChanErr → ChanErr) : LaterReads → LaterReads
  | .silent => .silent
  | .again first more => .again (first.map (ReadAnswer.mapErr f)) (more.map (Option.map (ReadAnswer.mapErr f)))
  | .free => .free

/-- The item with every error value in it renamed. -/
def TraceItem.mapErr (f : ChanErr → ChanErr) : TraceItem → TraceItem
  | .chanRead h => .chanRead h
  | .readAnswer c e => .readAnswer c (e.map f)
  | .chanWrite w => .chanWrite w
  | .writeAnswer n e => .writeAnswer n (e.map f)
  | .rxFrame p => .rxFrame p
  | .txFrame w => .txFrame w
  | .response r => .response { r with err := r.err.map f }

/-- The state with every error value in the channel's answers and in the trace renamed. -/
def State.mapErr (f : ChanErr → ChanErr) (s : State) : State :=
  { s with
    readAnswers := s.readAnswers.map (Option.map (ReadAnswer.mapErr f))
    laterReads := s.laterReads.mapErr f
    writeAnswers := s.writeAnswers.map fun a => { a with err := a.err.map f }
    trace := s.trace.map (TraceItem.mapErr f) }

/-- The outcome with its next state changed by `f`. -/
def mapNext (f : State → State) : Host.Outcome State Fault Refusal → Host.Outcome State Fault Refusal
  | .next s => .next (f s)
  | .fault r => .fault r
  | .refused r => .refused r

end Sys2Proof.Machine
end

