-- ==== Sys2Proof/Certificates/Slice0/Obligations.lean ====
section
/-! DEFINITION. The statements. Words are written as R86 and R92 give them, bytes as R80 gives them. -/

open Sys2Proof Sys2Proof.Machine

/-! ### Encodings -/

/-- R89, R91: decoding what the encoder puts on the port gives the command back, with every operand, and leaves what
stands behind it. -/
def Obligations.DecodeOfEncodeIsTheCommand : Prop :=
  ∀ (i : Instr) (rest : List PortItem), i.wf = true → decode (encode i ++ rest) = .command i rest

/-- R85, R89: a command the decoder reads is well formed, and the items it takes are that command's encoding. -/
def Obligations.DecodedCommandIsWhatWasOnThePort : Prop :=
  ∀ (items rest : List PortItem) (i : Instr), decode items = .command i rest → i.wf = true ∧ items = encode i ++ rest

/-- R87: a word selects a mnemonic when `w AND mask = match`, and the rows are disjoint. -/
def Obligations.OpcodeTableSelectsTheCommand : Prop :=
  (∀ w : Word,
    (w &&& 0xFFFFFF00 = 0x10000000 ↔ ∃ b, decodeWord w = .decFeed b) ∧
    (w &&& 0xFFFFFF00 = 0x20000000 ↔ ∃ b, decodeWord w = .encPut b) ∧
    (w &&& 0xFFFFFFFF = 0x30000000 ↔ decodeWord w = .encEnd) ∧
    (w &&& 0xFFFF0000 = 0x40000000 ↔ ∃ len, decodeWord w = .encBlock len) ∧
    (w &&& 0xF0000000 = 0x50000000 ↔ ∃ cap hint, decodeWord w = .decBlock cap hint)) ∧
  opcodeTable.Pairwise fun r q => ∀ w : Word, ¬(r.selects w = true ∧ q.selects w = true)

/-- R86, R88: BYTE, LEN, CAP and HINT are the unsigned values of their bits. -/
def Obligations.OperandsAreUnsignedFields : Prop :=
  ∀ w : Word,
    (∀ b, decodeWord w = .decFeed b ∨ decodeWord w = .encPut b → b.toNat = w.toNat % 2 ^ 8) ∧
    (∀ len, decodeWord w = .encBlock len → len.toNat = w.toNat % 2 ^ 16) ∧
    (∀ cap hint, decodeWord w = .decBlock cap hint →
      cap.toNat = w.toNat / 2 ^ 14 % 2 ^ 14 ∧ hint.toNat = w.toNat % 2 ^ 14)

/-- R90: which words are illegal, and that such a word changes no state, makes no channel request, emits no event,
consumes no payload byte and is answered `respond(ILLEGAL_COMMAND, 0, 0)`. -/
def Obligations.IllegalWordIsAnsweredAndChangesNothing : Prop :=
  (∀ w : Word, decodeWord w = .illegal ↔
    w.toNat / 2 ^ 28 = 0 ∨ 6 ≤ w.toNat / 2 ^ 28 ∨
    ((w.toNat / 2 ^ 28 = 1 ∨ w.toNat / 2 ^ 28 = 2) ∧ w.toNat / 2 ^ 8 % 2 ^ 20 ≠ 0) ∨
    (w.toNat / 2 ^ 28 = 3 ∧ w.toNat % 2 ^ 28 ≠ 0) ∨
    (w.toNat / 2 ^ 28 = 4 ∧ w.toNat / 2 ^ 16 % 2 ^ 12 ≠ 0)) ∧
  (∀ (s : State) (w : Word) (rest : List PortItem), s.running → s.busy = false → decodeWord w = .illegal →
    s.port = .word w :: rest →
    step s = .next { s with port := rest, trace := s.trace ++ [answered 0x60000000 [] none] })

/-- R86, R98: words written out from the encoding tables decode to the commands they stand for. -/
def Obligations.SampleWordsDecode : Prop :=
  decode [.word 0b00010000000000000000000011000000] = .command (.decFeed 0xC0) [] ∧
  decode [.word 0b00100000000000000000000011011011] = .command (.encPut 0xDB) [] ∧
  decode [.word 0b00110000000000000000000000000000] = .command .encEnd [] ∧
  decode [.word 0b01000000000000000000000000000010, .byte 0x0A, .byte 0xC0, .byte 0x01] =
    .command (.encBlock 2 [0x0A, 0xC0]) [.byte 0x01] ∧
  decode [.word 0b01010000001010000000000000001000] = .command (.decBlock 160 8) [] ∧
  decode [.word 0b01110000000000000000000000000000] = .illegal 0x70000000 []

/-- R92, R231: STATUS, LEN and AUX stand at their bits of the response word, STATUS with its code. -/
def Obligations.ResponseWordFields : Prop :=
  ∀ (len aux : Count) (data : List Byte) (err : Option ChanErr),
    let fields := fun st => let r : Response := ⟨responseWord st len aux, data, err⟩; (r.status, r.len, r.aux)
    fields .ok = (0x0, len, aux) ∧ fields .frame = (0x1, len, aux) ∧ fields .noData = (0x2, len, aux) ∧
    fields .bufferOverflow = (0x3, len, aux) ∧ fields .unknownEscapedByte = (0x4, len, aux) ∧
    fields .channelError = (0x5, len, aux) ∧ fields .illegalCommand = (0x6, len, aux)

/-- R98, R99: the word each assembler line stands for, operands out of range are assembly errors, and the two
pseudo-instructions are the programs they expand to. -/
def Obligations.AssemblerLinesEncode : Prop :=
  (∀ b, assemble [.decFeed b] =
    if b ≤ 0xFF then some [.word (BitVec.ofNat 32 (0x10000000 + b))] else none) ∧
  (∀ b, assemble [.encPut b] =
    if b ≤ 0xFF then some [.word (BitVec.ofNat 32 (0x20000000 + b))] else none) ∧
  assemble [.encEnd] = some [.word 0x30000000] ∧
  (∀ bs : List Nat, assemble [.encBlock bs] =
    if bs.length ≤ 65535 ∧ ∀ b ∈ bs, b ≤ 0xFF then
      some (.word (BitVec.ofNat 32 (0x40000000 + bs.length)) :: bs.map fun b => .byte (BitVec.ofNat 8 b))
    else none) ∧
  (∀ cap hint, assemble [.decBlock cap hint] =
    if cap ≤ 16383 ∧ hint ≤ 16383 then some [.word (BitVec.ofNat 32 (0x50000000 + cap * 2 ^ 14 + hint))] else none) ∧
  (∀ bs : List Nat, assemble [.decFeeds bs] = assemble (bs.map .decFeed)) ∧
  (∀ bs : List Nat, assemble [.encFrame bs] = assemble (bs.map AsmLine.encPut ++ [.encEnd]))

/-! ### The escape core -/

/-- R110, R111: the wire bytes of one payload byte; the escaped length, the wire frame, its length and its bounds. -/
def Obligations.WireFrameOfAPayload : Prop :=
  (∀ b : Byte, esc b = if b = 0xC0 then [0xDB, 0xDC] else if b = 0xDB then [0xDB, 0xDD] else [b]) ∧
  (∀ p : List Byte,
    let escaped := (p.map esc).flatten
    escaped.length = p.length + p.count 0xC0 + p.count 0xDB ∧
    frame p = [0xFF, 0xC0] ++ escaped ++ [0xC0] ∧
    (frame p).length = 3 + escaped.length ∧
    p.length ≤ escaped.length ∧ escaped.length ≤ 2 * p.length ∧ 3 ≤ (frame p).length) ∧
  frame [0x0A, 0x01, 0xC0, 0x00, 0xCE, 0xDB, 0xE4] =
    [0xFF, 0xC0, 0x0A, 0x01, 0xDB, 0xDC, 0x00, 0xCE, 0xDB, 0xDD, 0xE4, 0xC0]

/-- R113: the escape-transition table, row by row. -/
def Obligations.EscapeTransitionTable : Prop :=
  escStep .normal 0xC0 = (.boundary, .normal) ∧
  escStep .normal 0xDB = (.enterEsc, .escaped) ∧
  (∀ c, c ≠ 0xC0 → c ≠ 0xDB → escStep .normal c = (.store c, .normal)) ∧
  escStep .escaped 0xDC = (.store 0xC0, .normal) ∧
  escStep .escaped 0xDD = (.store 0xDB, .normal) ∧
  (∀ c, c ≠ 0xDC → c ≠ 0xDD → escStep .escaped c = (.badEscape, .normal))

/-- R114: the table run over an escaped payload stores the payload, ends in NORMAL, and meets neither a boundary nor a
bad escape; the escaped payload holds no 0xC0, and each 0xDB in it is followed by 0xDC or 0xDD. -/
def Obligations.UnescapingInvertsEscaping : Prop :=
  ∀ p : List Byte,
    let escaped := (p.map esc).flatten
    escRun .normal escaped =
      (p.flatMap fun b => if b = 0xC0 ∨ b = 0xDB then [.enterEsc, .store b] else [.store b], .normal) ∧
    (0xC0 : Byte) ∉ escaped ∧
    ∀ n, escaped[n]? = some (0xDB : Byte) →
      escaped[n + 1]? = some (0xDC : Byte) ∨ escaped[n + 1]? = some (0xDD : Byte)

/-- R115, R113: each driver's escape bit, and what it answers, is the table's over the bytes it has been given, one after
another, however they come. RXI: any bytes fed, one command each, leave `id_state` where the table's run leaves it, with one
response for each byte, the one its action gives. RXB: cached bytes scanned while synchronised leave `bd_esc` where the
table's run leaves it; and no step but such a scan or a reset changes `bd_esc`, whatever it is a step of, so that it is held
across reads, responses and commands. -/
def Obligations.DecodersFollowTheEscapeTable : Prop :=
  (∀ (s : State) (cs : List Byte),
    ∃ t new, execAll (cs.map .decFeed) s = .next t ∧ t.trace = s.trace ++ new ∧
      t.idState = (escRun s.idState cs).2 ∧
      List.Forall₂ Action.answeredBy (escRun s.idState cs).1 (new.filterMap TraceItem.response?)) ∧
  (∀ (s t : State) (cs rest : List Byte), s.running → s.busy = true → s.bdSynced = true → s.bdCache = cs ++ rest →
    (∀ k < cs.length, ∀ u, runSteps k s = .next u → u.busy = true) → runSteps cs.length s = .next t →
    t.bdEsc = (escRun s.bdEsc cs).2 ∧ t.bdCache = rest) ∧
  (∀ s t : State, step s = .next t → s.resetIn.head? ≠ some 0 →
    ¬(s.busy = true ∧ s.bdSynced = true ∧ s.bdCache ≠ []) → t.bdEsc = s.bdEsc)

/-! ### ENC_BLOCK -/

/-- R132: ENC_BLOCK is answered BUFFER_OVERFLOW, with no channel request and nothing else changed, exactly when the whole
wire frame is longer than BUF_SIZE. -/
def Obligations.EncBlockOverflowsExactlyPastBufSize : Prop :=
  ∀ (s : State) (len : BitVec 16) (p : List Byte),
    (3 + p.length + p.count 0xC0 + p.count 0xDB > s.cfg.bufSize →
      exec (.encBlock len p) s =
        .next { s with busy := false, trace := s.trace ++ [answered 0x30000000 [] none] }) ∧
    (3 + p.length + p.count 0xC0 + p.count 0xDB ≤ s.cfg.bufSize →
      ∀ t, exec (.encBlock len p) s = .next t →
        ∃ n err r, t.trace = s.trace ++ [.chanWrite (frame p), .writeAnswer n err, .response r] ∧ r.status ≠ 0x3)

/-- R131, R133, R134: a frame that fits is written to the channel whole, in one ChanWrite; the response carries the
channel's count in LEN, and OK, or CHANNEL_ERROR with the channel's error value. Nothing else changes (R135). -/
def Obligations.EncBlockWritesTheFrameOnce : Prop :=
  ∀ (s : State) (len : BitVec 16) (p : List Byte) (a : WriteAnswer) (later : List WriteAnswer),
    (frame p).length ≤ s.cfg.bufSize → s.writeAnswers = a :: later → a.n ≤ (frame p).length →
    exec (.encBlock len p) s =
      .next { s with
        busy := false
        writeAnswers := later
        trace := s.trace ++
          [.chanWrite (frame p), .writeAnswer a.n a.err,
           answered ((if a.err = none then 0x0#4 else 0x5#4) ++ (BitVec.ofNat 14 a.n ++ 0#14)) [] a.err] }

/-- R16 with log 4 (the model's choice): where no write answer is placed, ENC_BLOCK does not wait; it completes with some
count within the channel's duty and some error value. -/
def Obligations.EncBlockNeverWaits : Prop :=
  ∀ (s : State) (len : BitVec 16) (p : List Byte),
    (frame p).length ≤ s.cfg.bufSize → s.writeAnswers = [] →
    ∃ n err, n ≤ (frame p).length ∧
      exec (.encBlock len p) s =
        .next { s with
          busy := false
          freeDraws := s.freeDraws + 1
          trace := s.trace ++
            [.chanWrite (frame p), .writeAnswer n err,
             answered ((if err = none then 0x0#4 else 0x5#4) ++ (BitVec.ofNat 14 n ++ 0#14)) [] err] }

/-! ### ENC_PUT and ENC_END -/

/-- R211, R212: an ENC_PUT that fits appends the preamble, where no frame is open, and the byte's escape; it is answered
OK. Bytes of the buffer outside the appended run, and everything else, are unchanged (R217). -/
def Obligations.EncPutAppendsTheEscapedByte : Prop :=
  ∀ (s : State) (b : Byte),
    let add := (if s.teSize = 0 then [0xFF, 0xC0] else []) ++ esc b
    s.teSize.toNat + add.length ≤ s.cfg.bufSize →
    ∃ t, exec (.encPut b) s = .next t ∧
      t = { s with busy := false, teBuf := t.teBuf, teSize := t.teSize, trace := s.trace ++ [answeredOk] } ∧
      t.teSize.toNat = s.teSize.toNat + add.length ∧
      t.teFrame = s.teFrame ++ add ∧
      ∀ a, (a < s.teSize.toNat ∨ s.teSize.toNat + add.length ≤ a) → t.teBuf.byte .te a = s.teBuf.byte .te a

/-- R213: an ENC_PUT whose bytes would take the frame past BUF_SIZE appends none of them, discards the open frame and is
answered BUFFER_OVERFLOW; nothing else changes. -/
def Obligations.EncPutOverflowDiscardsTheFrame : Prop :=
  ∀ (s : State) (b : Byte),
    s.teSize.toNat + ((if s.teSize = 0 then [0xFF, 0xC0] else []) ++ esc b).length > s.cfg.bufSize →
    exec (.encPut b) s =
      .next { s with busy := false, teSize := 0, trace := s.trace ++ [answered 0x30000000 [] none] }

/-- R215: an ENC_END that fits emits one TxFrame, the frame built so far with the closing END (and the preamble, where no
frame was open), before its response OK, and leaves no frame open. Bytes of the buffer outside the appended run, and
everything else, are unchanged (R217). -/
def Obligations.EncEndEmitsTheFrame : Prop :=
  ∀ s : State,
    let add := (if s.teSize = 0 then [0xFF, 0xC0] else []) ++ [0xC0]
    s.teSize.toNat + add.length ≤ s.cfg.bufSize →
    ∃ t, exec .encEnd s = .next t ∧
      t = { s with
              busy := false, teBuf := t.teBuf, teSize := 0
              trace := s.trace ++ [.txFrame (s.teFrame ++ add), answeredOk] } ∧
      ∀ a, (a < s.teSize.toNat ∨ s.teSize.toNat + add.length ≤ a) → t.teBuf.byte .te a = s.teBuf.byte .te a

/-- R216: an ENC_END that does not fit (only at a full buffer, never for an empty frame) appends nothing, emits nothing,
discards the frame and is answered BUFFER_OVERFLOW. -/
def Obligations.EncEndOverflowsOnlyAtAFullBuffer : Prop :=
  ∀ s : State, s.teSize.toNat ≤ s.cfg.bufSize →
    (s.teSize.toNat + ((if s.teSize = 0 then [0xFF, 0xC0] else []) ++ [(0xC0 : Byte)]).length > s.cfg.bufSize ↔
      s.teSize.toNat = s.cfg.bufSize) ∧
    (s.teSize.toNat = s.cfg.bufSize →
      exec .encEnd s =
        .next { s with busy := false, teSize := 0, trace := s.trace ++ [answered 0x30000000 [] none] })

/-- R220: from no open frame, putting a payload byte by byte and closing it answers OK each time and emits exactly
Frame(P), when that fits. When it does not, the commands that come before the first overflow answer OK, that overflow
discards the frame, and Frame(P) is never emitted; the rest of the commands then build a frame of their own, which holds
only the payload bytes behind the one that overflowed and is emitted where it fits. -/
def Obligations.IncrementalEncoderEqualsBlockEncoder : Prop :=
  ∀ (s : State) (p : List Byte), s.teSize = 0 →
    let commands := p.map Instr.encPut ++ [.encEnd]
    ((frame p).length ≤ s.cfg.bufSize →
      ∃ t, execAll commands s = .next t ∧ t.teSize = 0 ∧
        t.trace = s.trace ++ List.replicate p.length answeredOk ++ [.txFrame (frame p), answeredOk]) ∧
    (s.cfg.bufSize < (frame p).length →
      (∃ k ≤ p.length, ∃ t, execAll (commands.take (k + 1)) s = .next t ∧ t.teSize = 0 ∧
        t.trace = s.trace ++ List.replicate k answeredOk ++ [answered 0x30000000 [] none] ∧
        (k < p.length → (frame (p.drop (k + 1))).length ≤ s.cfg.bufSize →
          ∃ u, execAll commands s = .next u ∧ u.teSize = 0 ∧
            u.trace = t.trace ++ List.replicate (p.length - (k + 1)) answeredOk ++
              [.txFrame (frame (p.drop (k + 1))), answeredOk])) ∧
      ∃ t new, execAll commands s = .next t ∧ t.trace = s.trace ++ new ∧ TraceItem.txFrame (frame p) ∉ new)

/-! ### DEC_FEED -/

/-- R194: an END in NORMAL delivers a frame of at least 2 bytes as RxFrame before the response, drops a shorter one
without an event, and leaves RXI NORMAL and empty with OK. Nothing else changes. -/
def Obligations.FeedEndDeliversTheFrame : Prop :=
  ∀ s : State, s.idState = .normal →
    exec (.decFeed 0xC0) s =
      .next { s with
        busy := false, idSize := 0, idState := .normal
        trace := s.trace ++ (if 2 ≤ s.idSize.toNat then [.rxFrame s.idFrame] else []) ++ [answeredOk] }

/-- R192, R193: in NORMAL, 0xDB moves RXI to ESCAPED and stores nothing. A byte that stands for a payload byte v (itself
in NORMAL, 0xC0 or 0xDB for an escaped 0xDC or 0xDD) leaves RXI NORMAL. Below BUF_SIZE it is appended, with OK, and no
other byte of the buffer changes; at BUF_SIZE it is not stored, the frame is discarded, with BUFFER_OVERFLOW. Nothing else
changes. -/
def Obligations.FeedEscapesStoresOrOverflows : Prop :=
  (∀ s : State, s.idState = .normal →
    exec (.decFeed 0xDB) s =
      .next { s with busy := false, idState := .escaped, trace := s.trace ++ [answeredOk] }) ∧
  ∀ (s : State) (c v : Byte),
    (s.idState = .normal ∧ c ≠ 0xC0 ∧ c ≠ 0xDB ∧ v = c ∨
     s.idState = .escaped ∧ c = 0xDC ∧ v = 0xC0 ∨ s.idState = .escaped ∧ c = 0xDD ∧ v = 0xDB) →
    (s.idSize.toNat < s.cfg.bufSize →
      ∃ t, exec (.decFeed c) s = .next t ∧
        t = { s with
                busy := false, idState := .normal, idBuf := t.idBuf, idSize := t.idSize
                trace := s.trace ++ [answeredOk] } ∧
        t.idSize.toNat = s.idSize.toNat + 1 ∧
        t.idFrame = s.idFrame ++ [v] ∧
        ∀ a, a ≠ s.idSize.toNat → t.idBuf.byte .id a = s.idBuf.byte .id a) ∧
    (s.idSize.toNat = s.cfg.bufSize →
      exec (.decFeed c) s =
        .next { s with
          busy := false, idState := .normal, idSize := 0
          trace := s.trace ++ [answered 0x30000000 [] none] })

/-- R195: in ESCAPED, any byte but 0xDC and 0xDD, 0xC0 and 0xDB among them, is not stored; the frame is discarded and
RXI is NORMAL, with UNKNOWN_ESCAPED_BYTE. Nothing else changes. The next END ends an empty frame and emits nothing. -/
def Obligations.FeedBadEscapeDiscardsTheFrame : Prop :=
  ∀ (s : State) (c : Byte), s.idState = .escaped → c ≠ 0xDC → c ≠ 0xDD →
    ∃ t, exec (.decFeed c) s = .next t ∧
      t = { s with
              busy := false, idSize := 0, idState := .normal
              trace := s.trace ++ [answered 0x40000000 [] none] } ∧
      exec (.decFeed 0xC0) t = .next { t with trace := t.trace ++ [answeredOk] }

/-- R194, R239: whatever the machine does, a frame RXI delivers has at least 2 bytes and is what its buffer held. -/
def Obligations.DeliveredFramesHaveAtLeastTwoBytes : Prop :=
  ∀ (s t : State) (p : List Byte), step s = .next t → TraceItem.rxFrame p ∈ t.trace →
    TraceItem.rxFrame p ∈ s.trace ∨ (2 ≤ p.length ∧ p = s.idFrame)

/-- R200: feeding Frame(P) from NORMAL and empty delivers exactly P, at the trailing END, when 2 <= len(P) <= BUF_SIZE, and
nothing when len(P) < 2; with 0 < k < BUF_SIZE bytes left over (log 11), those and the FLUSH are delivered first. -/
def Obligations.FeedingAWireFrameDeliversThePayload : Prop :=
  ∀ (s : State) (p : List Byte), s.idState = .normal → p.length ≤ s.cfg.bufSize →
    (s.idSize = 0 →
      ∃ t, execAll ((frame p).map .decFeed) s = .next t ∧ t.idState = .normal ∧ t.idSize = 0 ∧
        t.trace = s.trace ++ List.replicate ((frame p).length - 1) answeredOk ++
          (if 2 ≤ p.length then [.rxFrame p] else []) ++ [answeredOk]) ∧
    (0 < s.idSize.toNat → s.idSize.toNat < s.cfg.bufSize → 2 ≤ p.length →
      ∃ t new, execAll ((frame p).map .decFeed) s = .next t ∧ t.trace = s.trace ++ new ∧
        new.filterMap TraceItem.rxFrame? = [s.idFrame ++ [0xFF], p])

/-- R200, R193: feeding a wire frame whose payload is longer than BUF_SIZE answers OK up to the byte that carries payload
byte BUF_SIZE + 1, and that one is answered BUFFER_OVERFLOW; no frame is delivered before it. -/
def Obligations.FeedingAnOversizedFrameOverflows : Prop :=
  ∀ (s : State) (p : List Byte) (b : Byte), s.idState = .normal → s.idSize = 0 → p.length = s.cfg.bufSize →
    ∃ t, execAll (([0xFF, 0xC0] ++ (p.map esc).flatten ++ esc b).map .decFeed) s = .next t ∧
      t.idState = .normal ∧ t.idSize = 0 ∧
      t.trace = s.trace ++
        List.replicate (([0xFF, 0xC0] ++ (p.map esc).flatten ++ esc b).length - 1) answeredOk ++
        [answered 0x30000000 [] none]

/-! ### DEC_BLOCK -/

/-- R152: DEC_BLOCK's entry: the command is in progress with its operands clamped to BUF_SIZE, and nothing else changes. -/
def Obligations.DecBlockEntryClampsItsOperands : Prop :=
  ∀ (s : State) (cap hint : Count),
    ∃ t, exec (.decBlock cap hint) s = .next t ∧
      t = { s with busy := true, opCap := t.opCap, opHint := t.opHint } ∧
      t.opCap.toNat = min cap.toNat s.cfg.bufSize ∧ t.opHint.toNat = min hint.toNat s.cfg.bufSize

/-- R153 to R156, R22: with an empty cache, a DEC_BLOCK in progress makes one read with its hint, and the request and its
answer go to the trace. An error ends it with CHANNEL_ERROR, the partial frame reported and kept, the chunk cached; no
bytes and no error ends it with NO_DATA and changes nothing; bytes go to the cache and the command goes on. With bytes in
the cache no read is made. `u` is the state with the answer taken from the channel's side: the first of the listed answers,
if there is one. -/
def Obligations.DecBlockReadsOnlyWithAnEmptyCache : Prop :=
  (∀ (s u : State) (a : ReadAnswer), s.running → s.busy = true → s.bdCache = [] → s.readPending = false →
    s.nextRead s.opHint = (some a, u) → a.chunk.length ≤ s.opHint.toNat →
    u = { s with readAnswers := u.readAnswers, freeDraws := u.freeDraws } ∧
    (∀ later, s.readAnswers = some a :: later → u = { s with readAnswers := later }) ∧
    (∀ e, a.err = some e →
      step s =
        .next { u with
          busy := false, bdCache := a.chunk
          trace := s.trace ++
            [.chanRead s.opHint, .readAnswer a.chunk a.err,
             answered (0x5#4 ++ (s.bdSize ++ BitVec.ofNat 14 a.chunk.length)) s.bdFrame a.err] }) ∧
    (a.err = none → a.chunk = [] →
      step s =
        .next { u with
          busy := false
          trace := s.trace ++ [.chanRead s.opHint, .readAnswer [] none, answered 0x20000000 [] none] }) ∧
    (a.err = none → a.chunk ≠ [] →
      step s =
        .next { u with
          bdCache := a.chunk
          trace := s.trace ++ [.chanRead s.opHint, .readAnswer a.chunk none] })) ∧
  (∀ s t : State, s.running → s.busy = true → s.bdCache ≠ [] → step s = .next t →
    t.readAnswers = s.readAnswers ∧ t.bdCache = s.bdCache.tail ∧
    ∃ new, t.trace = s.trace ++ new ∧ ∀ x ∈ new, x.isRead = false)

/-- R159: while hunting, a scanned byte is discarded; an END also synchronises RXB. Nothing is answered and nothing else
changes. -/
def Obligations.HuntingDiscardsUpToTheFirstEnd : Prop :=
  ∀ (s : State) (c : Byte) (rest : List Byte), s.running → s.busy = true → s.bdSynced = false → s.bdCache = c :: rest →
    step s = .next { s with bdCache := rest, bdSynced := decide (c = 0xC0) }

/-- R160, R161: synchronised, ESC in NORMAL is remembered and not stored; a byte that stands for a payload byte v, with
`bd_size < op_cap`, is appended, no other byte of the buffer changes, and `bd_esc` is cleared. The command goes on. -/
def Obligations.ScanStoresBelowCapacity : Prop :=
  ∀ (s : State) (c : Byte) (rest : List Byte), s.running → s.busy = true → s.bdSynced = true → s.bdCache = c :: rest →
    (s.bdEsc = .normal → c = 0xDB → step s = .next { s with bdCache := rest, bdEsc := .escaped }) ∧
    (∀ v,
      (s.bdEsc = .normal ∧ c ≠ 0xC0 ∧ c ≠ 0xDB ∧ v = c ∨
       s.bdEsc = .escaped ∧ c = 0xDC ∧ v = 0xC0 ∨ s.bdEsc = .escaped ∧ c = 0xDD ∧ v = 0xDB) →
      s.bdSize.toNat < s.opCap.toNat →
      ∃ t, step s = .next t ∧
        t = { s with bdCache := rest, bdEsc := .normal, bdBuf := t.bdBuf, bdSize := t.bdSize } ∧
        t.bdSize.toNat = s.bdSize.toNat + 1 ∧
        t.bdFrame = s.bdFrame ++ [v] ∧
        ∀ a, a ≠ s.bdSize.toNat → t.bdBuf.byte .bd a = s.bdBuf.byte .bd a)

/-- R162: at `bd_size >= op_cap` such a byte is not stored: the frame is discarded, RXB is NORMAL, and the command ends
with BUFFER_OVERFLOW, the rest staying in the cache. -/
def Obligations.ScanOverflowsAtCapacity : Prop :=
  ∀ (s : State) (c : Byte) (rest : List Byte), s.running → s.busy = true → s.bdSynced = true → s.bdCache = c :: rest →
    (s.bdEsc = .normal ∧ c ≠ 0xC0 ∧ c ≠ 0xDB ∨ s.bdEsc = .escaped ∧ (c = 0xDC ∨ c = 0xDD)) →
    s.opCap.toNat ≤ s.bdSize.toNat →
    step s =
      .next { s with
        busy := false, bdCache := rest, bdEsc := .normal, bdSize := 0
        trace := s.trace ++ [answered (0x3#4 ++ (0#14 ++ BitVec.ofNat 14 rest.length)) [] none] }

/-- R163: after ESC, any byte but 0xDC and 0xDD, 0xC0 and 0xDB among them, is consumed and not stored; the frame is
discarded and the command ends with UNKNOWN_ESCAPED_BYTE. -/
def Obligations.ScanBadEscapeEndsTheCommand : Prop :=
  ∀ (s : State) (c : Byte) (rest : List Byte), s.running → s.busy = true → s.bdSynced = true → s.bdCache = c :: rest →
    s.bdEsc = .escaped → c ≠ 0xDC → c ≠ 0xDD →
    step s =
      .next { s with
        busy := false, bdCache := rest, bdEsc := .normal, bdSize := 0
        trace := s.trace ++ [answered (0x4#4 ++ (0#14 ++ BitVec.ofNat 14 rest.length)) [] none] }

/-- R164, R165: an END in NORMAL ends the command: with FRAME and the frame's bytes, whatever its length, where it is
within this command's capacity; with BUFFER_OVERFLOW and no frame where it is longer. -/
def Obligations.ScanEndReturnsTheFrame : Prop :=
  ∀ (s : State) (rest : List Byte), s.running → s.busy = true → s.bdSynced = true → s.bdCache = 0xC0 :: rest →
    s.bdEsc = .normal →
    (s.bdSize.toNat ≤ s.opCap.toNat →
      step s =
        .next { s with
          busy := false, bdCache := rest, bdSize := 0
          trace := s.trace ++ [answered (0x1#4 ++ (s.bdSize ++ BitVec.ofNat 14 rest.length)) s.bdFrame none] }) ∧
    (s.opCap.toNat < s.bdSize.toNat →
      step s =
        .next { s with
          busy := false, bdCache := rest, bdSize := 0
          trace := s.trace ++ [answered (0x3#4 ++ (0#14 ++ BitVec.ofNat 14 rest.length)) [] none] })

/-- R166, R168: each micro-step of a DEC_BLOCK ends the command with exactly one response, its last trace item, whose AUX
is the length of the cache, whose status is FRAME, NO_DATA, BUFFER_OVERFLOW, UNKNOWN_ESCAPED_BYTE or CHANNEL_ERROR, or
answers nothing and leaves it in progress. -/
def Obligations.DecBlockAnswersOnceWithItsCacheLength : Prop :=
  ∀ s t : State, Inv s → s.running → s.busy = true → step s = .next t →
    (t.busy = false ∧ ∃ new r, t.trace = s.trace ++ new ++ [.response r] ∧ (∀ x ∈ new, x.isResponse = false) ∧
      r.aux.toNat = t.bdCache.length ∧ 1 ≤ r.status.toNat ∧ r.status.toNat ≤ 5) ∨
    (t.busy = true ∧ ∃ new, t.trace = s.trace ++ new ∧ ∀ x ∈ new, x.isResponse = false)

/-- R165, R161: a FRAME response carries LEN bytes, and never more than the command's capacity. -/
def Obligations.ReturnedFrameFitsTheCapacity : Prop :=
  ∀ (s t : State) (r : Response), step s = .next t → TraceItem.response r ∈ t.trace → r.status = 0x1 →
    TraceItem.response r ∈ s.trace ∨ (r.data.length = r.len.toNat ∧ r.len.toNat ≤ s.opCap.toNat)

/-- R171: a synchronised DEC_BLOCK that is supplied with `2·op_cap + 2` bytes ends: with all of them cached, within that
many micro-steps; read from a channel that answers with bytes, that many of them or without end, within twice that many. -/
def Obligations.SynchronisedDecBlockEnds : Prop :=
  ∀ s : State, s.running → s.busy = true → s.bdSynced = true →
    (2 * s.opCap.toNat + 2 ≤ s.bdCache.length →
      ∃ n ≤ 2 * s.opCap.toNat + 2, ∃ t, runSteps n s = .next t ∧ t.busy = false) ∧
    (s.readPending = false → (s.supplied ∧ 2 * s.opCap.toNat + 2 ≤ s.stream.length ∨ s.suppliedForEver) →
      ∃ n ≤ 2 * (2 * s.opCap.toNat + 2), ∃ t, runSteps n s = .next t ∧ t.busy = false)

/-- R171, R271: the two ways DEC_BLOCK does not end. A read that is not answered is in the trace and stays pending, in one
and the same state for ever; that this wait is a step which changes nothing, and that an answer comes with its request or
never, is the model's choice (log 8). While hunting, bytes with no END in them keep DEC_BLOCK in progress with no response:
for ever, with a read answered each time, where the channel supplies for ever. -/
def Obligations.DecBlockCanHang : Prop :=
  (∀ s : State, s.running → s.busy = true → s.bdCache = [] → s.readPending = false → (s.nextRead s.opHint).1 = none →
    ∃ t, step s = .next t ∧
      t = { s with
              readPending := true, readAnswers := t.readAnswers, freeDraws := t.freeDraws
              trace := s.trace ++ [.chanRead s.opHint] } ∧
      ∀ n, runSteps n t = .next t) ∧
  (∀ (s : State) (n : Nat), s.running → s.busy = true → s.bdSynced = false → (0xC0 : Byte) ∉ s.stream → s.supplied →
    s.laterReads = .silent →
    ∃ t new, runSteps n s = .next t ∧ t.busy = true ∧ t.bdSynced = false ∧ t.trace = s.trace ++ new ∧
      ∀ x ∈ new, x.isRead = true) ∧
  (∀ (s : State) (first : Option ReadAnswer) (more : List (Option ReadAnswer)) (n : Nat), s.running → s.busy = true →
    s.bdSynced = false → s.readPending = false → (0xC0 : Byte) ∉ s.stream → s.suppliedForEver →
    s.laterReads = .again first more → (0xC0 : Byte) ∉ (first :: more).flatMap bytesOfAnswer →
    ∃ t new, runSteps n s = .next t ∧ t.busy = true ∧ t.bdSynced = false ∧ t.readPending = false ∧
      t.trace = s.trace ++ new ∧ ∀ x ∈ new, x.isRead = true)

/-- R172 (b): decode(encode(P)) = P. From hunting, with a channel that supplies Frame(P) in any chunks, empty ones among
them, within the hints, successive DEC_BLOCK commands with CAP >= len(P), one more than there are empty chunks, end with
NO_DATA zero or more times (k) and then with FRAME and exactly P; the commands behind that one are still on the port. -/
def Obligations.DecodeOfEncodeReturnsThePayload : Prop :=
  ∀ (s : State) (ds : List (Count × Count)) (p : List Byte),
    s.running → s.busy = false → s.readPending = false → s.bdSynced = false → s.bdSize = 0 → s.bdEsc = .normal →
    s.port = decBlocks ds → (∀ d ∈ ds, p.length ≤ min d.1.toNat s.cfg.bufSize) →
    s.answeredWithin ds → (∀ o ∈ s.readAnswers, ∀ a, o = some a → a.err = none) →
    s.readAnswers.countP interrupts < ds.length → s.stream = frame p →
    ∃ n t new k, runSteps n s = .next t ∧ t.busy = false ∧ t.bdSynced = true ∧ t.bdSize = 0 ∧ t.bdCache = [] ∧
      k ≤ s.readAnswers.countP interrupts ∧ t.port = decBlocks (ds.drop (k + 1)) ∧
      t.trace = s.trace ++ new ++ [answered (0x1#4 ++ (BitVec.ofNat 14 p.length ++ 0#14)) p none] ∧
      (∀ x ∈ new, x.isRead = true ∨ x = answered 0x20000000 [] none) ∧ new.countP TraceItem.isResponse = k

/-- R267: from hunting, Frame(P1) followed by Frame(P2) gives FRAME P1, FRAME [0xFF] (the second frame's FLUSH) and
FRAME P2. In one chunk: to three DEC_BLOCK commands, with the bytes still cached in AUX. In any chunks, errors and empty
ones among them: to as many DEC_BLOCK commands as there are of those, and three more, as their responses other than NO_DATA
and CHANNEL_ERROR. -/
def Obligations.SecondFrameIsPrecededByItsFlush : Prop :=
  ∀ (s : State) (p q : List Byte),
    s.running → s.busy = false → s.readPending = false → s.bdSynced = false → s.bdSize = 0 → s.bdEsc = .normal →
    (∀ cap hint : Count,
      s.bdCache = [] → s.port = decBlocks [(cap, hint), (cap, hint), (cap, hint)] →
      s.readAnswers = [some ⟨frame p ++ frame q, none⟩] →
      (frame p ++ frame q).length ≤ min hint.toNat s.cfg.bufSize →
      1 ≤ cap.toNat → p.length ≤ cap.toNat → q.length ≤ cap.toNat →
      ∃ n t h, runSteps n s = .next t ∧ t.finished ∧
        t.trace = s.trace ++
          [.chanRead h, .readAnswer (frame p ++ frame q) none,
           answered (0x1#4 ++ (BitVec.ofNat 14 p.length ++ BitVec.ofNat 14 (frame q).length)) p none,
           answered (0x1#4 ++ (1#14 ++ BitVec.ofNat 14 ((frame q).length - 2))) [0xFF] none,
           answered (0x1#4 ++ (BitVec.ofNat 14 q.length ++ 0#14)) q none]) ∧
    (∀ ds : List (Count × Count),
      s.port = decBlocks ds → (∀ d ∈ ds, 1 ≤ d.1.toNat ∧ p.length ≤ min d.1.toNat s.cfg.bufSize ∧
        q.length ≤ min d.1.toNat s.cfg.bufSize) →
      s.answeredWithin ds → s.readAnswers.countP interrupts + 3 ≤ ds.length → s.stream = frame p ++ frame q →
      ∃ n t new, runSteps n s = .next t ∧ t.busy = false ∧ t.bdCache = [] ∧ t.trace = s.trace ++ new ∧
        verdicts new =
          [(0x1, BitVec.ofNat 14 p.length, p), (0x1, 1, [0xFF]), (0x1, BitVec.ofNat 14 q.length, q)])

/-- R172 (a), within one command: how the stream is cut into chunks does not matter. Two states that differ in nothing
RXB sees but the cut come to the same response, up to AUX, and to the same RXB state and rest of the stream. -/
def Obligations.ChunkingDoesNotMatter : Prop :=
  ∀ (s₁ s₂ t₁ : State) (n₁ : Nat),
    s₁.running → s₂.running → s₁.supplied → s₂.supplied → s₁.laterReads = .silent → s₂.readPending = false →
    s₁.stream = s₂.stream → s₁.busy = true → s₂.busy = true → s₁.cfg = s₂.cfg → s₁.opCap = s₂.opCap →
    s₁.bdSynced = s₂.bdSynced → s₁.bdEsc = s₂.bdEsc → s₁.bdSize = s₂.bdSize → s₁.bdFrame = s₂.bdFrame →
    runSteps n₁ s₁ = .next t₁ → t₁.busy = false →
    (∀ k < n₁, ∀ t, runSteps k s₁ = .next t → t.busy = true) →
    ∃ n₂ t₂ new₁ new₂ r₁ r₂, runSteps n₂ s₂ = .next t₂ ∧ t₂.busy = false ∧
      t₁.trace = s₁.trace ++ new₁ ++ [.response r₁] ∧ t₂.trace = s₂.trace ++ new₂ ++ [.response r₂] ∧
      (∀ x ∈ new₁ ++ new₂, x.isRead = true) ∧
      r₁.status = r₂.status ∧ r₁.len = r₂.len ∧ r₁.data = r₂.data ∧ r₁.err = r₂.err ∧
      t₁.stream = t₂.stream ∧ t₁.bdSynced = t₂.bdSynced ∧ t₁.bdEsc = t₂.bdEsc ∧ t₁.bdSize = t₂.bdSize ∧
      t₁.bdFrame = t₂.bdFrame

/-- R172 (a), over successive commands: two idle machines that agree in RXB's frame state and in the bytes to come, cut in
any two ways into chunks, empty ones and errors among them, and that are given DEC_BLOCK commands with the same CAP on
every call. Whatever responses other than NO_DATA and CHANNEL_ERROR the first comes to, the second comes to the same, apart
from AUX, given commands enough to make up for the answers that end a command by themselves. -/
def Obligations.FragmentationDoesNotMatter : Prop :=
  ∀ (s₁ s₂ : State) (ds₁ ds₂ : List (Count × Count)) (cap : Count),
    s₁.running → s₂.running → s₁.busy = false → s₂.busy = false → s₁.readPending = false → s₂.readPending = false →
    s₁.cfg = s₂.cfg → s₁.bdSynced = s₂.bdSynced → s₁.bdEsc = s₂.bdEsc → s₁.bdSize = s₂.bdSize → s₁.bdFrame = s₂.bdFrame →
    s₁.port = decBlocks ds₁ → s₂.port = decBlocks ds₂ → (∀ d ∈ ds₁ ++ ds₂, d.1 = cap) →
    s₁.answeredWithin ds₁ → s₂.answeredWithin ds₂ → s₁.laterReads = .silent → s₁.stream = s₂.stream →
    ds₁.length + s₂.readAnswers.countP interrupts ≤ ds₂.length →
    ∀ n₁ t₁, runSteps n₁ s₁ = .next t₁ →
      ∃ n₂ t₂ new₁ new₂, runSteps n₂ s₂ = .next t₂ ∧ t₁.trace = s₁.trace ++ new₁ ∧ t₂.trace = s₂.trace ++ new₂ ∧
        verdicts new₁ = verdicts new₂

/-! ### Steps, reset, the whole machine -/

/-- R16, R85: when idle, the command at the head of the port is accepted and the step is that command's meaning, with the
command's items taken from the port and a reset to come (R260, log 10) brought one step nearer. -/
def Obligations.StepRunsTheDecodedCommand : Prop :=
  ∀ (s : State) (i : Instr) (rest : List PortItem), s.hasReset = true → s.busy = false →
    decode s.port = .command i rest →
    (s.resetIn = [] → step s = exec i { s with port := rest }) ∧
    (∀ n later, s.resetIn = (n + 1) :: later → step s = exec i { s with port := rest, resetIn := n :: later })

/-- R260, R262, R277: a step that comes before a reset to come is the step there would be with no reset to come, with the
reset brought one step nearer (log 10). So what is said of a running machine is said of one with a later reset as well. -/
def Obligations.StepBeforeALaterReset : Prop :=
  ∀ (s : State) (n : Nat) (later : List Nat), s.resetIn = (n + 1) :: later →
    step s = mapNext (fun t => { t with resetIn := n :: later }) (step { s with resetIn := [] })

/-- R18, R31: with SLIPCORE idle and no further command, the run is at its end. The model's choice (log 14): a step there
answers the same state. -/
def Obligations.FinishedRunStaysAsItIs : Prop := ∀ s : State, s.running → s.finished → step s = .next s

/-- R269, R15, with the refusals' names: a payload that is not exactly LEN bytes, a chunk longer than the hint and a
count larger than the bytes written have no meaning. (That the port is one list, on which a payload can end early, and that
the answers stand in lists, are the model's choices: log 7, log 8.) -/
def Obligations.BrokenDutiesAreRefused : Prop :=
  (∀ (s : State) (b : Byte) (rest : List PortItem), s.running → s.busy = false → s.port = .byte b :: rest →
    step s = .refused .strayPayloadByte) ∧
  (∀ (s : State) (w : Word) (len : BitVec 16) (given : List Byte) (rest : List PortItem), s.running → s.busy = false →
    decodeWord w = .encBlock len → given.length < len.toNat → (rest = [] ∨ ∃ v more, rest = .word v :: more) →
    s.port = .word w :: given.map .byte ++ rest → step s = .refused .payloadNotSupplied) ∧
  (∀ (s : State) (a : ReadAnswer), s.running → s.busy = true → s.bdCache = [] → s.readPending = false →
    (s.nextRead s.opHint).1 = some a → s.opHint.toNat < a.chunk.length → step s = .refused .readLongerThanHint) ∧
  (∀ (s : State) (len : BitVec 16) (p : List Byte) (a : WriteAnswer) (later : List WriteAnswer),
    (frame p).length ≤ s.cfg.bufSize → s.writeAnswers = a :: later → (frame p).length < a.n →
    exec (.encBlock len p) s = .refused .writeCountTooLarge)

/-- R43, R260: an asserted reset gives every state element its reset value, whatever SLIPCORE was doing. The machine right
after reset has those values too, and R9's BUF_SIZE. R263 and R44: the build and what is outside SLIPCORE stay; that the
host's commands and the channel's answers stand in lists which a reset leaves as they are, and the list of the resets to
come, are the model's choices (log 7, log 8, log 10). -/
def Obligations.ResetGivesEveryElementItsResetValue : Prop :=
  let atReset := fun t : State =>
    t.busy = false ∧ t.teSize = 0 ∧ t.idState = .normal ∧ t.idSize = 0 ∧
    t.bdSynced = false ∧ t.bdEsc = .normal ∧ t.bdSize = 0 ∧ t.bdCache = [] ∧ t.readPending = false
  (∀ (s : State) (later : List Nat), s.resetIn = 0 :: later →
    ∃ t, step s = .next t ∧ atReset t ∧
      t.hasReset = true ∧ t.resetIn = later ∧ t.cfg = s.cfg ∧ t.port = s.port ∧
      t.readAnswers = s.readAnswers ∧ t.laterReads = s.laterReads ∧ t.writeAnswers = s.writeAnswers) ∧
  atReset State.reset ∧ State.reset.cfg.bufSize = 2048

/-- R262: a reset while a DEC_BLOCK is in progress abandons it: no response is produced for it, then or later, the cached
bytes are lost, and the command's word is not performed again. The model's choice (log 7, log 10): the port's list is as it
was, and a reset adds nothing to the trace. -/
def Obligations.ResetAbandonsADecBlock : Prop :=
  ∀ (s : State) (later : List Nat), s.busy = true → s.resetIn = 0 :: later →
    ∃ t, step s = .next t ∧ t.busy = false ∧ t.trace = s.trace ∧ t.bdCache = [] ∧ t.readPending = false ∧
      t.port = s.port ∧
      (later = [] → step t = acceptCommand t)

/-- R261: before the first reset no command is given a result. -/
def Obligations.NothingRunsBeforeTheFirstReset : Prop :=
  ∀ s : State, s.hasReset = false → s.resetIn.head? ≠ some 0 → step s = .refused .notResetYet

/-- R40: a machine just reset, of any build and with any inputs, satisfies the invariant. -/
def Obligations.InvariantHoldsAtReset : Prop := ∀ s : State, Started s → Inv s

/-- R40: every step keeps the invariant. -/
def Obligations.EveryStepKeepsTheInvariant : Prop := ∀ s t : State, Inv s → step s = .next t → Inv t

/-- R40, R41: in every state reached from reset, each frame a unit holds was written by commands, byte by byte: no byte
of it is an unspecified one. -/
def Obligations.HeldFramesAreWritten : Prop :=
  ∀ s t : State, Started s → Reaches s t →
    t.teSize.toNat ≤ t.cfg.bufSize ∧ t.idSize.toNat ≤ t.cfg.bufSize ∧ t.bdSize.toNat ≤ t.cfg.bufSize ∧
    t.bdCache.length ≤ t.cfg.bufSize ∧
    t.teFrame.map some = (List.range t.teSize.toNat).map t.teBuf.find ∧
    t.idFrame.map some = (List.range t.idSize.toNat).map t.idBuf.find ∧
    t.bdFrame.map some = (List.range t.bdSize.toNat).map t.bdBuf.find

/-- R38, R159: `bd_synced` is cleared by reset only. -/
def Obligations.OnlyResetClearsSync : Prop :=
  ∀ s t : State, step s = .next t → s.bdSynced = true → t.bdSynced = false → s.resetIn.head? = some 0

/-- R3, R30, R38: each command writes its own unit's state only, and none changes the build. -/
def Obligations.CommandsWriteTheirOwnUnitOnly : Prop :=
  ∀ (i : Instr) (s t : State), exec i s = .next t →
    t.cfg = s.cfg ∧ t.hasReset = s.hasReset ∧ t.resetIn = s.resetIn ∧ t.port = s.port ∧
    t.readAnswers = s.readAnswers ∧ t.laterReads = s.laterReads ∧ t.readPending = s.readPending ∧
    t.bdSynced = s.bdSynced ∧ t.bdEsc = s.bdEsc ∧ t.bdBuf = s.bdBuf ∧ t.bdSize = s.bdSize ∧ t.bdCache = s.bdCache ∧
    ((∀ c, i ≠ .decFeed c) → t.idState = s.idState ∧ t.idBuf = s.idBuf ∧ t.idSize = s.idSize) ∧
    ((∀ b, i ≠ .encPut b) → i ≠ .encEnd → t.teBuf = s.teBuf ∧ t.teSize = s.teSize) ∧
    ((∀ len p, i ≠ .encBlock len p) → t.writeAnswers = s.writeAnswers ∧ t.freeDraws = s.freeDraws) ∧
    ((∀ cap hint, i ≠ .decBlock cap hint) → t.opCap = s.opCap ∧ t.opHint = s.opHint)

/-- R167: a DEC_BLOCK in progress writes RXB's state, `busy` and the trace only, and takes only read answers (a free one
counts as drawn: log 8). -/
def Obligations.DecBlockWritesRxbOnly : Prop :=
  ∀ s t : State, s.running → s.busy = true → step s = .next t →
    t = { s with
            busy := t.busy, bdSynced := t.bdSynced, bdEsc := t.bdEsc, bdBuf := t.bdBuf, bdSize := t.bdSize
            bdCache := t.bdCache, readPending := t.readPending, readAnswers := t.readAnswers
            freeDraws := t.freeDraws, trace := t.trace }

/-- R3, R42, R196, R217: what a command of RXI or TXI shows, and what it leaves in its unit, depends on that unit alone:
two machines of one build that agree in the unit's frame and flag show the same, whatever their other units hold. -/
def Obligations.UnitsCannotSeeEachOther : Prop :=
  ∀ s₁ s₂ : State, s₁.cfg = s₂.cfg →
    (s₁.idState = s₂.idState → s₁.idSize = s₂.idSize → s₁.idFrame = s₂.idFrame →
      ∀ c, ∃ t₁ t₂ new, exec (.decFeed c) s₁ = .next t₁ ∧ exec (.decFeed c) s₂ = .next t₂ ∧
        t₁.trace = s₁.trace ++ new ∧ t₂.trace = s₂.trace ++ new ∧
        t₁.idState = t₂.idState ∧ t₁.idSize = t₂.idSize ∧
        (s₁.idSize.toNat ≤ s₁.cfg.bufSize → t₁.idFrame = t₂.idFrame)) ∧
    (s₁.teSize = s₂.teSize → s₁.teFrame = s₂.teFrame →
      ∀ i, (i = .encEnd ∨ ∃ b, i = .encPut b) →
        ∃ t₁ t₂ new, exec i s₁ = .next t₁ ∧ exec i s₂ = .next t₂ ∧
          t₁.trace = s₁.trace ++ new ∧ t₂.trace = s₂.trace ++ new ∧
          t₁.teSize = t₂.teSize ∧ t₁.teFrame = t₂.teFrame)

/-- R11: SLIPCORE never inspects, compares or creates a ChanErr value: renaming the error values of the channel's answers
renames those of the trace and changes nothing else. Asked only of a step that draws no free answer, since a free error
value is not one of the answers renamed: an ENC_BLOCK whose frame fits is answered (log 4), a read is not a free one
(log 8). -/
def Obligations.ErrorValuesPassThroughUnread : Prop :=
  ∀ (s : State) (f : ChanErr → ChanErr),
    (∀ len p rest, s.busy = false → decode s.port = .command (.encBlock len p) rest →
      (frame p).length ≤ s.cfg.bufSize → s.writeAnswers ≠ []) →
    (s.busy = true → s.bdCache = [] → s.readPending = false → s.readAnswers = [] → s.laterReads ≠ .free) →
    step (s.mapErr f) = mapNext (State.mapErr f) (step s)

/-- R136, R168, R197, R217, R231: the statuses each command can be answered with; none is ever a reserved code. -/
def Obligations.StatusesOfEachCommand : Prop :=
  ∀ (i : Instr) (s t : State) (r : Response), exec i s = .next t → TraceItem.response r ∈ t.trace →
    TraceItem.response r ∈ s.trace ∨
      match i with
      | .decFeed _ => r.status = 0x0 ∨ r.status = 0x3 ∨ r.status = 0x4
      | .encPut _ => r.status = 0x0 ∨ r.status = 0x3
      | .encEnd => r.status = 0x0 ∨ r.status = 0x3
      | .encBlock _ _ => r.status = 0x0 ∨ r.status = 0x3 ∨ r.status = 0x5
      | .decBlock _ _ => False

/-- R16, R17, R92: a command other than DEC_BLOCK leaves SLIPCORE idle and adds to the trace nothing, its one event, or its one
write with the answer, then exactly one response, its last item. -/
def Obligations.EachCommandEndsWithOneResponse : Prop :=
  ∀ (i : Instr) (s t : State), (∀ cap hint, i ≠ .decBlock cap hint) → exec i s = .next t →
    t.busy = false ∧ ∃ before r, t.trace = s.trace ++ before ++ [.response r] ∧
      (before = [] ∨ (∃ p, before = [.rxFrame p]) ∨ (∃ w, before = [.txFrame w]) ∨
        ∃ w n err, before = [.chanWrite w, .writeAnswer n err])

/-- R16, R32, R68: SLIPCORE becomes idle only by a response or by a reset. -/
def Obligations.BusyEndsByResponseOrReset : Prop :=
  ∀ s t : State, step s = .next t → s.busy = true → t.busy = false →
    s.resetIn.head? = some 0 ∨ ∃ new r, t.trace = s.trace ++ new ++ [.response r]

/-- R17: the trace only grows. -/
def Obligations.TraceOnlyGrows : Prop := ∀ s t : State, step s = .next t → ∃ new, t.trace = s.trace ++ new
end

