-- ==== Sys2Proof/Laws/Decode.lean ====
section
/-! SUPPORT. When a word spells which command (30_encoding.md R91), and the payload bytes behind an ENC_BLOCK word
(R89): the decoder unfolded once. -/

namespace Sys2Proof

theorem decodeWord_eq_decFeed {w : Word} {b : Byte} :
    decodeWord w = .decFeed b ↔ w.opc = 1#4 ∧ w.reservedCB = 0 ∧ w.byteField = b := by
  simp only [decodeWord]; split_ifs <;> simp_all

theorem decodeWord_eq_encPut {w : Word} {b : Byte} :
    decodeWord w = .encPut b ↔ w.opc = 2#4 ∧ w.reservedCB = 0 ∧ w.byteField = b := by
  simp only [decodeWord]; split_ifs <;> simp_all

theorem decodeWord_eq_encEnd {w : Word} : decodeWord w = .encEnd ↔ w.opc = 3#4 ∧ w.reservedCN = 0 := by
  simp only [decodeWord]; split_ifs <;> simp_all

theorem decodeWord_eq_encBlock {w : Word} {len : BitVec 16} :
    decodeWord w = .encBlock len ↔ w.opc = 4#4 ∧ w.reservedCL = 0 ∧ w.lenField = len := by
  simp only [decodeWord]; split_ifs <;> simp_all

theorem decodeWord_eq_decBlock {w : Word} {cap hint : Count} :
    decodeWord w = .decBlock cap hint ↔ w.opc = 5#4 ∧ w.capField = cap ∧ w.hintField = hint := by
  simp only [decodeWord]; split_ifs <;> simp_all

theorem takeMore_bytes (p taken : List Byte) (rest : List PortItem) :
    takeMore p.length (p.map .byte ++ rest) taken = some (taken.reverse ++ p, rest) := by
  induction p generalizing taken with
  | nil => simp [takeMore]
  | cons b p ih => simpa [takeMore] using ih (b :: taken)

theorem takeMore_eq_some {n : Nat} {items rest : List PortItem} {taken q : List Byte}
    (h : takeMore n items taken = some (q, rest)) :
    ∃ p, p.length = n ∧ q = taken.reverse ++ p ∧ items = p.map .byte ++ rest := by
  induction n generalizing items taken with
  | zero =>
    simp only [takeMore, Option.some.injEq, Prod.mk.injEq] at h
    exact ⟨[], rfl, by simp [h.1], by simp [h.2]⟩
  | succ n ih =>
    cases items with
    | nil => simp [takeMore] at h
    | cons x items =>
      cases x with
      | word w => simp [takeMore] at h
      | byte b =>
        obtain ⟨p, hl, hq, hi⟩ := ih h
        exact ⟨b :: p, by simp [hl], by simp [hq], by simp [hi]⟩

/-- Exactly the given bytes are taken when they stand first on the port. -/
theorem takePayload_bytes (p : List Byte) (rest : List PortItem) :
    takePayload p.length (p.map .byte ++ rest) = some (p, rest) := takeMore_bytes p [] rest

/-- What is taken stood first on the port, as many bytes as asked for. -/
theorem takePayload_eq_some {n : Nat} {items rest : List PortItem} {p : List Byte}
    (h : takePayload n items = some (p, rest)) : p.length = n ∧ items = p.map .byte ++ rest := by
  obtain ⟨q, hl, rfl, hi⟩ := takeMore_eq_some h
  exact ⟨hl, hi⟩

/-- Nothing is taken where the bytes run out before the asked number, at a word or at the end of the port. -/
theorem takePayload_short {n : Nat} (p : List Byte) (rest : List PortItem) (hp : p.length < n)
    (hr : rest = [] ∨ ∃ w more, rest = .word w :: more) : takePayload n (p.map .byte ++ rest) = none := by
  cases h : takePayload n (p.map .byte ++ rest) with
  | none => rfl
  | some r =>
    obtain ⟨hl, hi⟩ := takePayload_eq_some (p := r.1) (rest := r.2) h
    exfalso
    have hlt : p.length < (r.1.map PortItem.byte).length := by simpa [hl] using hp
    have hat := congrArg (·[p.length]?) hi
    simp only [List.getElem?_append_right (show (p.map PortItem.byte).length ≤ p.length by simp), List.length_map,
      Nat.sub_self, List.getElem?_append_left hlt] at hat
    rcases hr with rfl | ⟨w, more, rfl⟩
    · simp only [List.getElem?_nil] at hat
      exact absurd hat.symm (by simpa [hl] using hp)
    · simp only [List.getElem?_cons_zero, List.getElem?_map] at hat
      cases hb : r.1[p.length]? <;> simp [hb] at hat

end Sys2Proof
end

