-- ==== Sys2Proof/Laws/Fields.lean ====
section
/-! SUPPORT. The fields of a word that is put together from fields, and the fields of a response word (30_encoding.md
R92, 60_exceptions.md R231). -/

namespace Sys2Proof

/-- The middle one of three fields. -/
theorem extract_middle {m n k : Nat} (a : BitVec m) (b : BitVec n) (c : BitVec k) :
    (a ++ (b ++ c)).extractLsb' k n = b := by
  rw [BitVec.extractLsb'_append_eq_of_add_le (by omega), BitVec.extractLsb'_append_eq_left]

/-- The lowest one of three fields. -/
theorem extract_lowest {m n k : Nat} (a : BitVec m) (b : BitVec n) (c : BitVec k) :
    (a ++ (b ++ c)).extractLsb' 0 k = c := by
  rw [BitVec.extractLsb'_append_eq_of_add_le (by omega), BitVec.extractLsb'_append_eq_right]

namespace Machine

variable (st : Status) (len aux : Count)

@[simp] theorem responseWord_status : (responseWord st len aux).extractLsb' 28 4 = st.code :=
  BitVec.extractLsb'_append_eq_left (b := len ++ aux)

@[simp] theorem responseWord_len : (responseWord st len aux).extractLsb' 14 14 = len := extract_middle st.code len aux

@[simp] theorem responseWord_aux : (responseWord st len aux).extractLsb' 0 14 = aux := extract_lowest st.code len aux

end Machine

end Sys2Proof
end

