-- ==== Sys2Proof/Laws/Memory.lean ====
section
/-! SUPPORT. The laws of the accumulation buffers: a read after a write, the canonical form, and what an append leaves
behind (20_memory.md R61, R62). -/

namespace Sys2Proof.Machine

/-! ### One byte -/

@[simp] theorem Memory.find_write_self (m : Memory) (a : Nat) (v : Byte) : (m.write a v).find a = some v := by
  induction m with
  | nil => simp [Memory.write, Memory.find]
  | cons c m ih =>
    simp only [Memory.write]
    split
    · simp [Memory.find]
    · split
      · simp [Memory.find]
      · rw [Memory.find, if_neg (by omega), ih]

theorem Memory.find_write_ne (m : Memory) {a b : Nat} (v : Byte) (h : b ≠ a) : (m.write a v).find b = m.find b := by
  induction m with
  | nil => simp [Memory.write, Memory.find, Ne.symm h]
  | cons c m ih =>
    simp only [Memory.write]
    split
    · rw [Memory.find, if_neg (Ne.symm h)]
    · split
      · next h1 => subst h1; simp [Memory.find, Ne.symm h]
      · simp [Memory.find, ih]

/-- An index of `m.write a v` is `a` or an index of `m`. -/
theorem Memory.mem_write {m : Memory} {a : Nat} {v : Byte} {c : Host.Cell} (h : c ∈ m.write a v) :
    c.1 = a ∨ c ∈ m := by
  induction m with
  | nil => simp_all [Memory.write]
  | cons d m ih =>
    simp only [Memory.write] at h
    split at h
    · rcases List.mem_cons.1 h with rfl | h
      · exact .inl rfl
      · exact .inr h
    · split at h
      · rcases List.mem_cons.1 h with rfl | h
        · exact .inl rfl
        · exact .inr (List.mem_cons_of_mem _ h)
      · rcases List.mem_cons.1 h with rfl | h
        · exact .inr (List.mem_cons_self ..)
        · exact (ih h).imp_right (List.mem_cons_of_mem _)

/-- A write keeps the canonical form. -/
theorem Memory.write_wf {m : Memory} (h : m.wf) (a : Nat) (v : Byte) : (m.write a v).wf := by
  induction m with
  | nil => simp [Memory.wf, Memory.write]
  | cons d m ih =>
    obtain ⟨hd, hm⟩ := List.pairwise_cons.1 h
    simp only [Memory.write]
    split
    · next hlt =>
      refine List.pairwise_cons.2 ⟨fun c hc => ?_, h⟩
      rcases List.mem_cons.1 hc with rfl | hc
      · exact hlt
      · exact Nat.lt_trans hlt (hd c hc)
    · split
      · next heq =>
        refine List.pairwise_cons.2 ⟨fun c hc => ?_, hm⟩
        have := hd c hc
        simp only [heq]
        exact this
      · next hlt hne =>
        refine List.pairwise_cons.2 ⟨fun c hc => ?_, ih hm⟩
        rcases Memory.mem_write hc with hca | hc
        · simp only [hca]; omega
        · exact hd c hc

/-! ### A list of bytes -/

@[simp] theorem Memory.append_nil (m : Memory) (k : Nat) : m.append k [] = m := rfl

/-- An append keeps the canonical form. -/
theorem Memory.append_wf {m : Memory} (h : m.wf) (k : Nat) (v : List Byte) : (m.append k v).wf := by
  induction v generalizing m k with
  | nil => exact h
  | cons b v ih => exact ih (Memory.write_wf h k b) (k + 1)

/-- What stands at an index after an append: the appended byte inside the appended run, else what stood there. -/
theorem Memory.find_append (m : Memory) (k : Nat) (v : List Byte) (a : Nat) :
    (m.append k v).find a = if k ≤ a ∧ a < k + v.length then v[a - k]? else m.find a := by
  induction v generalizing m k with
  | nil => rw [if_neg (by simp only [List.length_nil]; omega)]; rfl
  | cons b v ih =>
    rw [Memory.append, ih]
    by_cases hak : a = k
    · subst hak
      rw [if_neg (by omega), if_pos (by simp)]
      simp
    · by_cases hin : k + 1 ≤ a ∧ a < k + 1 + v.length
      · rw [if_pos hin, if_pos (by simp only [List.length_cons]; omega)]
        obtain ⟨d, rfl⟩ : ∃ d, a = k + 1 + d := ⟨a - (k + 1), by omega⟩
        rw [show k + 1 + d - (k + 1) = d by omega, show k + 1 + d - k = d + 1 by omega]
        rfl
      · rw [if_neg hin, if_neg (by simp only [List.length_cons]; omega), Memory.find_write_ne _ _ hak]

/-- The indexes of an append are old ones or inside the appended run. -/
theorem Memory.mem_append {m : Memory} {k : Nat} {v : List Byte} {c : Host.Cell} (h : c ∈ m.append k v) :
    c.1 < k + v.length ∨ c ∈ m := by
  induction v generalizing m k with
  | nil => exact .inr h
  | cons b v ih =>
    rcases ih h with h | h
    · left; simp only [List.length_cons]; omega
    · rcases Memory.mem_write h with h | h
      · left; simp only [List.length_cons]; omega
      · exact .inr h

theorem Memory.byte_append_outside (b : BufferId) (m : Memory) (k : Nat) (v : List Byte) {a : Nat}
    (h : a < k ∨ k + v.length ≤ a) : (m.append k v).byte b a = m.byte b a := by
  rw [Memory.byte, Memory.find_append, if_neg (by omega)]; rfl

@[simp] theorem Memory.readPrefix_zero (b : BufferId) (m : Memory) : m.readPrefix b 0 = [] := rfl

@[simp] theorem Memory.length_readPrefix (b : BufferId) (m : Memory) (k : Nat) : (m.readPrefix b k).length = k := by
  simp [Memory.readPrefix]

/-- The one law of Append and prefix reads (R61, R62): reading the old prefix and the appended run gives the old prefix
followed by the appended bytes. -/
theorem Memory.readPrefix_append (b : BufferId) (m : Memory) (k : Nat) (v : List Byte) :
    (m.append k v).readPrefix b (k + v.length) = m.readPrefix b k ++ v := by
  apply List.ext_getElem
  · simp
  · intro i h1 h2
    simp only [Memory.length_readPrefix] at h1
    simp only [Memory.readPrefix, List.getElem_map, List.getElem_range, List.getElem_append, List.length_map,
      List.length_range]
    split
    · next hi => exact Memory.byte_append_outside b m k v (.inl hi)
    · next hi =>
      rw [Memory.byte, Memory.find_append, if_pos (by omega), List.getElem?_eq_getElem (by omega)]
      rfl

/-! ### The buffer invariant -/

theorem Memory.append_within {m : Memory} {n k : Nat} {v : List Byte} (h : m.Within n) (hk : k + v.length ≤ n) :
    (m.append k v).Within n := fun c hc => (Memory.mem_append hc).elim (fun h1 => by omega) (h c)

theorem Memory.append_written {m : Memory} {k : Nat} (v : List Byte) (h : m.Written k) :
    (m.append k v).Written (k + v.length) := by
  intro a ha
  rw [Memory.find_append]
  by_cases hak : a < k
  · rw [if_neg (by omega)]; exact h a hak
  · rw [if_pos (by omega)]; simp; omega

@[simp] theorem toNat_count (n : Nat) : (count n).toNat = n % 16384 := by simp [count]

theorem toNat_count_of_le {n : Nat} (cfg : Config) (h : n ≤ cfg.bufSize) : (count n).toNat = n := by
  have := cfg.le_max
  simp; omega

/-- An append within BUF_SIZE keeps the invariant of its buffer. -/
theorem BufferInv.append {cfg : Config} {m : Memory} {size : Count} (h : BufferInv cfg m size) {v : List Byte}
    (hv : size.toNat + v.length ≤ cfg.bufSize) :
    BufferInv cfg (m.append size.toNat v) (count (size.toNat + v.length)) where
  wf := Memory.append_wf h.wf _ _
  within := Memory.append_within h.within hv
  written := by rw [toNat_count_of_le cfg hv]; exact Memory.append_written v h.written
  bound := by rw [toNat_count_of_le cfg hv]; exact hv

/-- A size set back to 0 keeps the invariant of its buffer. -/
theorem BufferInv.clear {cfg : Config} {m : Memory} {size : Count} (h : BufferInv cfg m size) : BufferInv cfg m 0 where
  wf := h.wf
  within := h.within
  written := fun a ha => absurd ha (by simp)
  bound := by simp

theorem BufferInv.empty (cfg : Config) : BufferInv cfg [] 0 where
  wf := List.Pairwise.nil
  within := fun _ h => nomatch h
  written := fun a ha => absurd ha (by simp)
  bound := by simp

/-- The machine right after reset has its buffers in canonical form. -/
theorem State.reset_wf : State.reset.teBuf.wf ∧ State.reset.idBuf.wf ∧ State.reset.bdBuf.wf :=
  ⟨List.Pairwise.nil, List.Pairwise.nil, List.Pairwise.nil⟩

end Sys2Proof.Machine
end

