-- ==== Sys2Proof/Laws/State.lean ====
section
/-! SUPPORT. One lemma per field per update of the state, so that no later proof unfolds an update. -/

namespace Sys2Proof.Machine

/-! ### State.log -/

section

variable (x : TraceItem) (s : State)

@[simp] theorem State.log_cfg : (State.log x s).cfg = s.cfg := rfl
@[simp] theorem State.log_busy : (State.log x s).busy = s.busy := rfl
@[simp] theorem State.log_opCap : (State.log x s).opCap = s.opCap := rfl
@[simp] theorem State.log_opHint : (State.log x s).opHint = s.opHint := rfl
@[simp] theorem State.log_teBuf : (State.log x s).teBuf = s.teBuf := rfl
@[simp] theorem State.log_teSize : (State.log x s).teSize = s.teSize := rfl
@[simp] theorem State.log_idState : (State.log x s).idState = s.idState := rfl
@[simp] theorem State.log_idBuf : (State.log x s).idBuf = s.idBuf := rfl
@[simp] theorem State.log_idSize : (State.log x s).idSize = s.idSize := rfl
@[simp] theorem State.log_bdSynced : (State.log x s).bdSynced = s.bdSynced := rfl
@[simp] theorem State.log_bdEsc : (State.log x s).bdEsc = s.bdEsc := rfl
@[simp] theorem State.log_bdBuf : (State.log x s).bdBuf = s.bdBuf := rfl
@[simp] theorem State.log_bdSize : (State.log x s).bdSize = s.bdSize := rfl
@[simp] theorem State.log_bdCache : (State.log x s).bdCache = s.bdCache := rfl
@[simp] theorem State.log_hasReset : (State.log x s).hasReset = s.hasReset := rfl
@[simp] theorem State.log_resetIn : (State.log x s).resetIn = s.resetIn := rfl
@[simp] theorem State.log_port : (State.log x s).port = s.port := rfl
@[simp] theorem State.log_readAnswers : (State.log x s).readAnswers = s.readAnswers := rfl
@[simp] theorem State.log_laterReads : (State.log x s).laterReads = s.laterReads := rfl
@[simp] theorem State.log_readPending : (State.log x s).readPending = s.readPending := rfl
@[simp] theorem State.log_writeAnswers : (State.log x s).writeAnswers = s.writeAnswers := rfl
@[simp] theorem State.log_trace : (State.log x s).trace = s.trace ++ [x] := rfl
@[simp] theorem State.log_freeDraws : (State.log x s).freeDraws = s.freeDraws := rfl

end

/-! ### State.respond -/

section

variable (st : Status) (len aux : Count) (d : List Byte) (e : Option ChanErr) (s : State)

@[simp] theorem State.respond_cfg : (State.respond st len aux d e s).cfg = s.cfg := rfl
@[simp] theorem State.respond_busy : (State.respond st len aux d e s).busy = false := rfl
@[simp] theorem State.respond_opCap : (State.respond st len aux d e s).opCap = s.opCap := rfl
@[simp] theorem State.respond_opHint : (State.respond st len aux d e s).opHint = s.opHint := rfl
@[simp] theorem State.respond_teBuf : (State.respond st len aux d e s).teBuf = s.teBuf := rfl
@[simp] theorem State.respond_teSize : (State.respond st len aux d e s).teSize = s.teSize := rfl
@[simp] theorem State.respond_idState : (State.respond st len aux d e s).idState = s.idState := rfl
@[simp] theorem State.respond_idBuf : (State.respond st len aux d e s).idBuf = s.idBuf := rfl
@[simp] theorem State.respond_idSize : (State.respond st len aux d e s).idSize = s.idSize := rfl
@[simp] theorem State.respond_bdSynced : (State.respond st len aux d e s).bdSynced = s.bdSynced := rfl
@[simp] theorem State.respond_bdEsc : (State.respond st len aux d e s).bdEsc = s.bdEsc := rfl
@[simp] theorem State.respond_bdBuf : (State.respond st len aux d e s).bdBuf = s.bdBuf := rfl
@[simp] theorem State.respond_bdSize : (State.respond st len aux d e s).bdSize = s.bdSize := rfl
@[simp] theorem State.respond_bdCache : (State.respond st len aux d e s).bdCache = s.bdCache := rfl
@[simp] theorem State.respond_hasReset : (State.respond st len aux d e s).hasReset = s.hasReset := rfl
@[simp] theorem State.respond_resetIn : (State.respond st len aux d e s).resetIn = s.resetIn := rfl
@[simp] theorem State.respond_port : (State.respond st len aux d e s).port = s.port := rfl
@[simp] theorem State.respond_readAnswers : (State.respond st len aux d e s).readAnswers = s.readAnswers := rfl
@[simp] theorem State.respond_laterReads : (State.respond st len aux d e s).laterReads = s.laterReads := rfl
@[simp] theorem State.respond_readPending : (State.respond st len aux d e s).readPending = s.readPending := rfl
@[simp] theorem State.respond_writeAnswers : (State.respond st len aux d e s).writeAnswers = s.writeAnswers := rfl
@[simp] theorem State.respond_trace : (State.respond st len aux d e s).trace = s.trace ++ [.response ⟨responseWord st len aux, d, e⟩] := rfl
@[simp] theorem State.respond_freeDraws : (State.respond st len aux d e s).freeDraws = s.freeDraws := rfl

end

/-! ### State.respondOk -/

section

variable (s : State)

@[simp] theorem State.respondOk_cfg : (State.respondOk s).cfg = s.cfg := rfl
@[simp] theorem State.respondOk_busy : (State.respondOk s).busy = false := rfl
@[simp] theorem State.respondOk_opCap : (State.respondOk s).opCap = s.opCap := rfl
@[simp] theorem State.respondOk_opHint : (State.respondOk s).opHint = s.opHint := rfl
@[simp] theorem State.respondOk_teBuf : (State.respondOk s).teBuf = s.teBuf := rfl
@[simp] theorem State.respondOk_teSize : (State.respondOk s).teSize = s.teSize := rfl
@[simp] theorem State.respondOk_idState : (State.respondOk s).idState = s.idState := rfl
@[simp] theorem State.respondOk_idBuf : (State.respondOk s).idBuf = s.idBuf := rfl
@[simp] theorem State.respondOk_idSize : (State.respondOk s).idSize = s.idSize := rfl
@[simp] theorem State.respondOk_bdSynced : (State.respondOk s).bdSynced = s.bdSynced := rfl
@[simp] theorem State.respondOk_bdEsc : (State.respondOk s).bdEsc = s.bdEsc := rfl
@[simp] theorem State.respondOk_bdBuf : (State.respondOk s).bdBuf = s.bdBuf := rfl
@[simp] theorem State.respondOk_bdSize : (State.respondOk s).bdSize = s.bdSize := rfl
@[simp] theorem State.respondOk_bdCache : (State.respondOk s).bdCache = s.bdCache := rfl
@[simp] theorem State.respondOk_hasReset : (State.respondOk s).hasReset = s.hasReset := rfl
@[simp] theorem State.respondOk_resetIn : (State.respondOk s).resetIn = s.resetIn := rfl
@[simp] theorem State.respondOk_port : (State.respondOk s).port = s.port := rfl
@[simp] theorem State.respondOk_readAnswers : (State.respondOk s).readAnswers = s.readAnswers := rfl
@[simp] theorem State.respondOk_laterReads : (State.respondOk s).laterReads = s.laterReads := rfl
@[simp] theorem State.respondOk_readPending : (State.respondOk s).readPending = s.readPending := rfl
@[simp] theorem State.respondOk_writeAnswers : (State.respondOk s).writeAnswers = s.writeAnswers := rfl
@[simp] theorem State.respondOk_trace : (State.respondOk s).trace = s.trace ++ [.response ⟨responseWord .ok 0 0, [], none⟩] := rfl
@[simp] theorem State.respondOk_freeDraws : (State.respondOk s).freeDraws = s.freeDraws := rfl

end

/-! ### State.raise -/

section

variable (st : Status) (s : State)

@[simp] theorem State.raise_cfg : (State.raise st s).cfg = s.cfg := rfl
@[simp] theorem State.raise_busy : (State.raise st s).busy = false := rfl
@[simp] theorem State.raise_opCap : (State.raise st s).opCap = s.opCap := rfl
@[simp] theorem State.raise_opHint : (State.raise st s).opHint = s.opHint := rfl
@[simp] theorem State.raise_teBuf : (State.raise st s).teBuf = s.teBuf := rfl
@[simp] theorem State.raise_teSize : (State.raise st s).teSize = s.teSize := rfl
@[simp] theorem State.raise_idState : (State.raise st s).idState = s.idState := rfl
@[simp] theorem State.raise_idBuf : (State.raise st s).idBuf = s.idBuf := rfl
@[simp] theorem State.raise_idSize : (State.raise st s).idSize = s.idSize := rfl
@[simp] theorem State.raise_bdSynced : (State.raise st s).bdSynced = s.bdSynced := rfl
@[simp] theorem State.raise_bdEsc : (State.raise st s).bdEsc = s.bdEsc := rfl
@[simp] theorem State.raise_bdBuf : (State.raise st s).bdBuf = s.bdBuf := rfl
@[simp] theorem State.raise_bdSize : (State.raise st s).bdSize = s.bdSize := rfl
@[simp] theorem State.raise_bdCache : (State.raise st s).bdCache = s.bdCache := rfl
@[simp] theorem State.raise_hasReset : (State.raise st s).hasReset = s.hasReset := rfl
@[simp] theorem State.raise_resetIn : (State.raise st s).resetIn = s.resetIn := rfl
@[simp] theorem State.raise_port : (State.raise st s).port = s.port := rfl
@[simp] theorem State.raise_readAnswers : (State.raise st s).readAnswers = s.readAnswers := rfl
@[simp] theorem State.raise_laterReads : (State.raise st s).laterReads = s.laterReads := rfl
@[simp] theorem State.raise_readPending : (State.raise st s).readPending = s.readPending := rfl
@[simp] theorem State.raise_writeAnswers : (State.raise st s).writeAnswers = s.writeAnswers := rfl
@[simp] theorem State.raise_trace : (State.raise st s).trace = s.trace ++ [.response ⟨responseWord st 0 0, [], none⟩] := rfl
@[simp] theorem State.raise_freeDraws : (State.raise st s).freeDraws = s.freeDraws := rfl

end

/-! ### State.teAppend -/

section

variable (v : List Byte) (s : State)

@[simp] theorem State.teAppend_cfg : (State.teAppend v s).cfg = s.cfg := rfl
@[simp] theorem State.teAppend_busy : (State.teAppend v s).busy = s.busy := rfl
@[simp] theorem State.teAppend_opCap : (State.teAppend v s).opCap = s.opCap := rfl
@[simp] theorem State.teAppend_opHint : (State.teAppend v s).opHint = s.opHint := rfl
@[simp] theorem State.teAppend_teBuf : (State.teAppend v s).teBuf = s.teBuf.append s.teSize.toNat v := rfl
@[simp] theorem State.teAppend_teSize : (State.teAppend v s).teSize = count (s.teSize.toNat + v.length) := rfl
@[simp] theorem State.teAppend_idState : (State.teAppend v s).idState = s.idState := rfl
@[simp] theorem State.teAppend_idBuf : (State.teAppend v s).idBuf = s.idBuf := rfl
@[simp] theorem State.teAppend_idSize : (State.teAppend v s).idSize = s.idSize := rfl
@[simp] theorem State.teAppend_bdSynced : (State.teAppend v s).bdSynced = s.bdSynced := rfl
@[simp] theorem State.teAppend_bdEsc : (State.teAppend v s).bdEsc = s.bdEsc := rfl
@[simp] theorem State.teAppend_bdBuf : (State.teAppend v s).bdBuf = s.bdBuf := rfl
@[simp] theorem State.teAppend_bdSize : (State.teAppend v s).bdSize = s.bdSize := rfl
@[simp] theorem State.teAppend_bdCache : (State.teAppend v s).bdCache = s.bdCache := rfl
@[simp] theorem State.teAppend_hasReset : (State.teAppend v s).hasReset = s.hasReset := rfl
@[simp] theorem State.teAppend_resetIn : (State.teAppend v s).resetIn = s.resetIn := rfl
@[simp] theorem State.teAppend_port : (State.teAppend v s).port = s.port := rfl
@[simp] theorem State.teAppend_readAnswers : (State.teAppend v s).readAnswers = s.readAnswers := rfl
@[simp] theorem State.teAppend_laterReads : (State.teAppend v s).laterReads = s.laterReads := rfl
@[simp] theorem State.teAppend_readPending : (State.teAppend v s).readPending = s.readPending := rfl
@[simp] theorem State.teAppend_writeAnswers : (State.teAppend v s).writeAnswers = s.writeAnswers := rfl
@[simp] theorem State.teAppend_trace : (State.teAppend v s).trace = s.trace := rfl
@[simp] theorem State.teAppend_freeDraws : (State.teAppend v s).freeDraws = s.freeDraws := rfl

end

/-! ### State.idAppend -/

section

variable (v : Byte) (s : State)

@[simp] theorem State.idAppend_cfg : (State.idAppend v s).cfg = s.cfg := rfl
@[simp] theorem State.idAppend_busy : (State.idAppend v s).busy = s.busy := rfl
@[simp] theorem State.idAppend_opCap : (State.idAppend v s).opCap = s.opCap := rfl
@[simp] theorem State.idAppend_opHint : (State.idAppend v s).opHint = s.opHint := rfl
@[simp] theorem State.idAppend_teBuf : (State.idAppend v s).teBuf = s.teBuf := rfl
@[simp] theorem State.idAppend_teSize : (State.idAppend v s).teSize = s.teSize := rfl
@[simp] theorem State.idAppend_idState : (State.idAppend v s).idState = s.idState := rfl
@[simp] theorem State.idAppend_idBuf : (State.idAppend v s).idBuf = s.idBuf.append s.idSize.toNat [v] := rfl
@[simp] theorem State.idAppend_idSize : (State.idAppend v s).idSize = count (s.idSize.toNat + 1) := rfl
@[simp] theorem State.idAppend_bdSynced : (State.idAppend v s).bdSynced = s.bdSynced := rfl
@[simp] theorem State.idAppend_bdEsc : (State.idAppend v s).bdEsc = s.bdEsc := rfl
@[simp] theorem State.idAppend_bdBuf : (State.idAppend v s).bdBuf = s.bdBuf := rfl
@[simp] theorem State.idAppend_bdSize : (State.idAppend v s).bdSize = s.bdSize := rfl
@[simp] theorem State.idAppend_bdCache : (State.idAppend v s).bdCache = s.bdCache := rfl
@[simp] theorem State.idAppend_hasReset : (State.idAppend v s).hasReset = s.hasReset := rfl
@[simp] theorem State.idAppend_resetIn : (State.idAppend v s).resetIn = s.resetIn := rfl
@[simp] theorem State.idAppend_port : (State.idAppend v s).port = s.port := rfl
@[simp] theorem State.idAppend_readAnswers : (State.idAppend v s).readAnswers = s.readAnswers := rfl
@[simp] theorem State.idAppend_laterReads : (State.idAppend v s).laterReads = s.laterReads := rfl
@[simp] theorem State.idAppend_readPending : (State.idAppend v s).readPending = s.readPending := rfl
@[simp] theorem State.idAppend_writeAnswers : (State.idAppend v s).writeAnswers = s.writeAnswers := rfl
@[simp] theorem State.idAppend_trace : (State.idAppend v s).trace = s.trace := rfl
@[simp] theorem State.idAppend_freeDraws : (State.idAppend v s).freeDraws = s.freeDraws := rfl

end

/-! ### State.bdAppend -/

section

variable (v : Byte) (s : State)

@[simp] theorem State.bdAppend_cfg : (State.bdAppend v s).cfg = s.cfg := rfl
@[simp] theorem State.bdAppend_busy : (State.bdAppend v s).busy = s.busy := rfl
@[simp] theorem State.bdAppend_opCap : (State.bdAppend v s).opCap = s.opCap := rfl
@[simp] theorem State.bdAppend_opHint : (State.bdAppend v s).opHint = s.opHint := rfl
@[simp] theorem State.bdAppend_teBuf : (State.bdAppend v s).teBuf = s.teBuf := rfl
@[simp] theorem State.bdAppend_teSize : (State.bdAppend v s).teSize = s.teSize := rfl
@[simp] theorem State.bdAppend_idState : (State.bdAppend v s).idState = s.idState := rfl
@[simp] theorem State.bdAppend_idBuf : (State.bdAppend v s).idBuf = s.idBuf := rfl
@[simp] theorem State.bdAppend_idSize : (State.bdAppend v s).idSize = s.idSize := rfl
@[simp] theorem State.bdAppend_bdSynced : (State.bdAppend v s).bdSynced = s.bdSynced := rfl
@[simp] theorem State.bdAppend_bdEsc : (State.bdAppend v s).bdEsc = s.bdEsc := rfl
@[simp] theorem State.bdAppend_bdBuf : (State.bdAppend v s).bdBuf = s.bdBuf.append s.bdSize.toNat [v] := rfl
@[simp] theorem State.bdAppend_bdSize : (State.bdAppend v s).bdSize = count (s.bdSize.toNat + 1) := rfl
@[simp] theorem State.bdAppend_bdCache : (State.bdAppend v s).bdCache = s.bdCache := rfl
@[simp] theorem State.bdAppend_hasReset : (State.bdAppend v s).hasReset = s.hasReset := rfl
@[simp] theorem State.bdAppend_resetIn : (State.bdAppend v s).resetIn = s.resetIn := rfl
@[simp] theorem State.bdAppend_port : (State.bdAppend v s).port = s.port := rfl
@[simp] theorem State.bdAppend_readAnswers : (State.bdAppend v s).readAnswers = s.readAnswers := rfl
@[simp] theorem State.bdAppend_laterReads : (State.bdAppend v s).laterReads = s.laterReads := rfl
@[simp] theorem State.bdAppend_readPending : (State.bdAppend v s).readPending = s.readPending := rfl
@[simp] theorem State.bdAppend_writeAnswers : (State.bdAppend v s).writeAnswers = s.writeAnswers := rfl
@[simp] theorem State.bdAppend_trace : (State.bdAppend v s).trace = s.trace := rfl
@[simp] theorem State.bdAppend_freeDraws : (State.bdAppend v s).freeDraws = s.freeDraws := rfl

end

/-! ### State.assertReset -/

section

variable (s : State)

@[simp] theorem State.assertReset_cfg : (State.assertReset s).cfg = s.cfg := rfl
@[simp] theorem State.assertReset_busy : (State.assertReset s).busy = false := rfl
@[simp] theorem State.assertReset_opCap : (State.assertReset s).opCap = 0 := rfl
@[simp] theorem State.assertReset_opHint : (State.assertReset s).opHint = 0 := rfl
@[simp] theorem State.assertReset_teBuf : (State.assertReset s).teBuf = [] := rfl
@[simp] theorem State.assertReset_teSize : (State.assertReset s).teSize = 0 := rfl
@[simp] theorem State.assertReset_idState : (State.assertReset s).idState = .normal := rfl
@[simp] theorem State.assertReset_idBuf : (State.assertReset s).idBuf = [] := rfl
@[simp] theorem State.assertReset_idSize : (State.assertReset s).idSize = 0 := rfl
@[simp] theorem State.assertReset_bdSynced : (State.assertReset s).bdSynced = false := rfl
@[simp] theorem State.assertReset_bdEsc : (State.assertReset s).bdEsc = .normal := rfl
@[simp] theorem State.assertReset_bdBuf : (State.assertReset s).bdBuf = [] := rfl
@[simp] theorem State.assertReset_bdSize : (State.assertReset s).bdSize = 0 := rfl
@[simp] theorem State.assertReset_bdCache : (State.assertReset s).bdCache = [] := rfl
@[simp] theorem State.assertReset_hasReset : (State.assertReset s).hasReset = true := rfl
@[simp] theorem State.assertReset_resetIn : (State.assertReset s).resetIn = s.resetIn := rfl
@[simp] theorem State.assertReset_port : (State.assertReset s).port = s.port := rfl
@[simp] theorem State.assertReset_readAnswers : (State.assertReset s).readAnswers = s.readAnswers := rfl
@[simp] theorem State.assertReset_laterReads : (State.assertReset s).laterReads = s.laterReads := rfl
@[simp] theorem State.assertReset_readPending : (State.assertReset s).readPending = false := rfl
@[simp] theorem State.assertReset_writeAnswers : (State.assertReset s).writeAnswers = s.writeAnswers := rfl
@[simp] theorem State.assertReset_trace : (State.assertReset s).trace = s.trace := rfl
@[simp] theorem State.assertReset_freeDraws : (State.assertReset s).freeDraws = s.freeDraws := rfl

end

/-! ### State.withPortItems -/

section

variable (is : List PortItem) (s : State)

@[simp] theorem State.withPortItems_cfg : (State.withPortItems is s).cfg = s.cfg := rfl
@[simp] theorem State.withPortItems_busy : (State.withPortItems is s).busy = false := rfl
@[simp] theorem State.withPortItems_opCap : (State.withPortItems is s).opCap = s.opCap := rfl
@[simp] theorem State.withPortItems_opHint : (State.withPortItems is s).opHint = s.opHint := rfl
@[simp] theorem State.withPortItems_teBuf : (State.withPortItems is s).teBuf = s.teBuf := rfl
@[simp] theorem State.withPortItems_teSize : (State.withPortItems is s).teSize = s.teSize := rfl
@[simp] theorem State.withPortItems_idState : (State.withPortItems is s).idState = s.idState := rfl
@[simp] theorem State.withPortItems_idBuf : (State.withPortItems is s).idBuf = s.idBuf := rfl
@[simp] theorem State.withPortItems_idSize : (State.withPortItems is s).idSize = s.idSize := rfl
@[simp] theorem State.withPortItems_bdSynced : (State.withPortItems is s).bdSynced = s.bdSynced := rfl
@[simp] theorem State.withPortItems_bdEsc : (State.withPortItems is s).bdEsc = s.bdEsc := rfl
@[simp] theorem State.withPortItems_bdBuf : (State.withPortItems is s).bdBuf = s.bdBuf := rfl
@[simp] theorem State.withPortItems_bdSize : (State.withPortItems is s).bdSize = s.bdSize := rfl
@[simp] theorem State.withPortItems_bdCache : (State.withPortItems is s).bdCache = s.bdCache := rfl
@[simp] theorem State.withPortItems_hasReset : (State.withPortItems is s).hasReset = true := rfl
@[simp] theorem State.withPortItems_resetIn : (State.withPortItems is s).resetIn = [] := rfl
@[simp] theorem State.withPortItems_port : (State.withPortItems is s).port = is ++ s.port := rfl
@[simp] theorem State.withPortItems_readAnswers : (State.withPortItems is s).readAnswers = s.readAnswers := rfl
@[simp] theorem State.withPortItems_laterReads : (State.withPortItems is s).laterReads = s.laterReads := rfl
@[simp] theorem State.withPortItems_readPending : (State.withPortItems is s).readPending = s.readPending := rfl
@[simp] theorem State.withPortItems_writeAnswers : (State.withPortItems is s).writeAnswers = s.writeAnswers := rfl
@[simp] theorem State.withPortItems_trace : (State.withPortItems is s).trace = s.trace := rfl
@[simp] theorem State.withPortItems_freeDraws : (State.withPortItems is s).freeDraws = s.freeDraws := rfl

end

/-! ### State.written -/

section

variable (w : List Byte) (n : Nat) (e : Option ChanErr) (s : State)

@[simp] theorem State.written_cfg : (State.written w n e s).cfg = s.cfg := rfl
@[simp] theorem State.written_busy : (State.written w n e s).busy = s.busy := rfl
@[simp] theorem State.written_opCap : (State.written w n e s).opCap = s.opCap := rfl
@[simp] theorem State.written_opHint : (State.written w n e s).opHint = s.opHint := rfl
@[simp] theorem State.written_teBuf : (State.written w n e s).teBuf = s.teBuf := rfl
@[simp] theorem State.written_teSize : (State.written w n e s).teSize = s.teSize := rfl
@[simp] theorem State.written_idState : (State.written w n e s).idState = s.idState := rfl
@[simp] theorem State.written_idBuf : (State.written w n e s).idBuf = s.idBuf := rfl
@[simp] theorem State.written_idSize : (State.written w n e s).idSize = s.idSize := rfl
@[simp] theorem State.written_bdSynced : (State.written w n e s).bdSynced = s.bdSynced := rfl
@[simp] theorem State.written_bdEsc : (State.written w n e s).bdEsc = s.bdEsc := rfl
@[simp] theorem State.written_bdBuf : (State.written w n e s).bdBuf = s.bdBuf := rfl
@[simp] theorem State.written_bdSize : (State.written w n e s).bdSize = s.bdSize := rfl
@[simp] theorem State.written_bdCache : (State.written w n e s).bdCache = s.bdCache := rfl
@[simp] theorem State.written_readPending : (State.written w n e s).readPending = s.readPending := rfl
@[simp] theorem State.written_hasReset : (State.written w n e s).hasReset = s.hasReset := rfl
@[simp] theorem State.written_resetIn : (State.written w n e s).resetIn = s.resetIn := rfl
@[simp] theorem State.written_port : (State.written w n e s).port = s.port := rfl
@[simp] theorem State.written_readAnswers : (State.written w n e s).readAnswers = s.readAnswers := rfl
@[simp] theorem State.written_laterReads : (State.written w n e s).laterReads = s.laterReads := rfl
@[simp] theorem State.written_writeAnswers : (State.written w n e s).writeAnswers = s.writeAnswers := rfl
@[simp] theorem State.written_trace : (State.written w n e s).trace = s.trace ++ [.chanWrite w, .writeAnswer n e] := by simp [State.written]
@[simp] theorem State.written_freeDraws : (State.written w n e s).freeDraws = s.freeDraws := rfl

end

/-! ### State.nextRead -/

section

variable (h : Count) (s : State)

/-- A read's answer is taken from the channel's side, and nothing else changes. -/
theorem State.nextRead_snd :
    (s.nextRead h).2 =
      { s with readAnswers := (s.nextRead h).2.readAnswers, freeDraws := (s.nextRead h).2.freeDraws } := by
  simp only [State.nextRead]
  split
  · rfl
  · split <;> rfl

@[simp] theorem State.nextRead_cfg : (s.nextRead h).2.cfg = s.cfg := by rw [State.nextRead_snd]
@[simp] theorem State.nextRead_busy : (s.nextRead h).2.busy = s.busy := by rw [State.nextRead_snd]
@[simp] theorem State.nextRead_opCap : (s.nextRead h).2.opCap = s.opCap := by rw [State.nextRead_snd]
@[simp] theorem State.nextRead_opHint : (s.nextRead h).2.opHint = s.opHint := by rw [State.nextRead_snd]
@[simp] theorem State.nextRead_teBuf : (s.nextRead h).2.teBuf = s.teBuf := by rw [State.nextRead_snd]
@[simp] theorem State.nextRead_teSize : (s.nextRead h).2.teSize = s.teSize := by rw [State.nextRead_snd]
@[simp] theorem State.nextRead_idState : (s.nextRead h).2.idState = s.idState := by rw [State.nextRead_snd]
@[simp] theorem State.nextRead_idBuf : (s.nextRead h).2.idBuf = s.idBuf := by rw [State.nextRead_snd]
@[simp] theorem State.nextRead_idSize : (s.nextRead h).2.idSize = s.idSize := by rw [State.nextRead_snd]
@[simp] theorem State.nextRead_bdSynced : (s.nextRead h).2.bdSynced = s.bdSynced := by rw [State.nextRead_snd]
@[simp] theorem State.nextRead_bdEsc : (s.nextRead h).2.bdEsc = s.bdEsc := by rw [State.nextRead_snd]
@[simp] theorem State.nextRead_bdBuf : (s.nextRead h).2.bdBuf = s.bdBuf := by rw [State.nextRead_snd]
@[simp] theorem State.nextRead_bdSize : (s.nextRead h).2.bdSize = s.bdSize := by rw [State.nextRead_snd]
@[simp] theorem State.nextRead_bdCache : (s.nextRead h).2.bdCache = s.bdCache := by rw [State.nextRead_snd]
@[simp] theorem State.nextRead_readPending : (s.nextRead h).2.readPending = s.readPending := by rw [State.nextRead_snd]
@[simp] theorem State.nextRead_hasReset : (s.nextRead h).2.hasReset = s.hasReset := by rw [State.nextRead_snd]
@[simp] theorem State.nextRead_resetIn : (s.nextRead h).2.resetIn = s.resetIn := by rw [State.nextRead_snd]
@[simp] theorem State.nextRead_port : (s.nextRead h).2.port = s.port := by rw [State.nextRead_snd]
@[simp] theorem State.nextRead_laterReads : (s.nextRead h).2.laterReads = s.laterReads := by rw [State.nextRead_snd]
@[simp] theorem State.nextRead_writeAnswers : (s.nextRead h).2.writeAnswers = s.writeAnswers := by rw [State.nextRead_snd]
@[simp] theorem State.nextRead_trace : (s.nextRead h).2.trace = s.trace := by rw [State.nextRead_snd]

end

/-! ### A read that is answered -/

/-- The state in which a read's answer has come: the request and the answer stand in the trace. -/
def State.afterRead (a : ReadAnswer) (s : State) : State :=
  ((s.nextRead s.opHint).2.log (.chanRead s.opHint)).log (.readAnswer a.chunk a.err)

section

variable (a : ReadAnswer) (s : State)

@[simp] theorem State.afterRead_cfg : (s.afterRead a).cfg = s.cfg := by simp [State.afterRead]
@[simp] theorem State.afterRead_busy : (s.afterRead a).busy = s.busy := by simp [State.afterRead]
@[simp] theorem State.afterRead_opCap : (s.afterRead a).opCap = s.opCap := by simp [State.afterRead]
@[simp] theorem State.afterRead_opHint : (s.afterRead a).opHint = s.opHint := by simp [State.afterRead]
@[simp] theorem State.afterRead_teBuf : (s.afterRead a).teBuf = s.teBuf := by simp [State.afterRead]
@[simp] theorem State.afterRead_teSize : (s.afterRead a).teSize = s.teSize := by simp [State.afterRead]
@[simp] theorem State.afterRead_idState : (s.afterRead a).idState = s.idState := by simp [State.afterRead]
@[simp] theorem State.afterRead_idBuf : (s.afterRead a).idBuf = s.idBuf := by simp [State.afterRead]
@[simp] theorem State.afterRead_idSize : (s.afterRead a).idSize = s.idSize := by simp [State.afterRead]
@[simp] theorem State.afterRead_bdSynced : (s.afterRead a).bdSynced = s.bdSynced := by simp [State.afterRead]
@[simp] theorem State.afterRead_bdEsc : (s.afterRead a).bdEsc = s.bdEsc := by simp [State.afterRead]
@[simp] theorem State.afterRead_bdBuf : (s.afterRead a).bdBuf = s.bdBuf := by simp [State.afterRead]
@[simp] theorem State.afterRead_bdSize : (s.afterRead a).bdSize = s.bdSize := by simp [State.afterRead]
@[simp] theorem State.afterRead_bdCache : (s.afterRead a).bdCache = s.bdCache := by simp [State.afterRead]
@[simp] theorem State.afterRead_readPending : (s.afterRead a).readPending = s.readPending := by simp [State.afterRead]
@[simp] theorem State.afterRead_hasReset : (s.afterRead a).hasReset = s.hasReset := by simp [State.afterRead]
@[simp] theorem State.afterRead_resetIn : (s.afterRead a).resetIn = s.resetIn := by simp [State.afterRead]
@[simp] theorem State.afterRead_port : (s.afterRead a).port = s.port := by simp [State.afterRead]
@[simp] theorem State.afterRead_readAnswers : (s.afterRead a).readAnswers = (s.nextRead s.opHint).2.readAnswers := rfl
@[simp] theorem State.afterRead_laterReads : (s.afterRead a).laterReads = s.laterReads := by simp [State.afterRead]
@[simp] theorem State.afterRead_writeAnswers : (s.afterRead a).writeAnswers = s.writeAnswers := by simp [State.afterRead]
@[simp] theorem State.afterRead_trace :
    (s.afterRead a).trace = s.trace ++ [.chanRead s.opHint, .readAnswer a.chunk a.err] := by simp [State.afterRead]
@[simp] theorem State.afterRead_freeDraws : (s.afterRead a).freeDraws = (s.nextRead s.opHint).2.freeDraws := rfl

end

end Sys2Proof.Machine
end

