-- ==== Sys2Proof/Laws/Ops.lean ====
section
/-! SUPPORT. What each shared operation does, once: frames under an append, the channel requests, the escape function
(20_memory.md R61, R62, 30_encoding.md R96, R97, 40_escaper.md R110). -/

namespace Sys2Proof.Machine

/-! ### Frames under an append -/

/-- TXI's frame after an append that fits. -/
theorem State.teFrame_teAppend {s : State} {v : List Byte} (h : s.teSize.toNat + v.length ≤ s.cfg.bufSize) :
    (s.teAppend v).teFrame = s.teFrame ++ v := by
  simp only [State.teFrame, State.teAppend_teBuf, State.teAppend_teSize, toNat_count_of_le s.cfg h]
  exact Memory.readPrefix_append ..

/-- RXI's frame after an append that fits. -/
theorem State.idFrame_idAppend {s : State} (v : Byte) (h : s.idSize.toNat < s.cfg.bufSize) :
    (s.idAppend v).idFrame = s.idFrame ++ [v] := by
  simp only [State.idFrame, State.idAppend_idBuf, State.idAppend_idSize, toNat_count_of_le s.cfg h]
  exact Memory.readPrefix_append .id s.idBuf s.idSize.toNat [v]

/-- RXB's partial frame after an append below a bound of 14 bits. -/
theorem State.bdFrame_bdAppend {s : State} (v : Byte) {n : Count} (h : s.bdSize.toNat < n.toNat) :
    (s.bdAppend v).bdFrame = s.bdFrame ++ [v] := by
  have hn : n.toNat < 16384 := n.isLt
  simp only [State.bdFrame, State.bdAppend_bdBuf, State.bdAppend_bdSize, toNat_count]
  rw [Nat.mod_eq_of_lt (by omega)]
  exact Memory.readPrefix_append .bd s.bdBuf s.bdSize.toNat [v]

@[simp] theorem State.length_teFrame (s : State) : s.teFrame.length = s.teSize.toNat := Memory.length_readPrefix ..
@[simp] theorem State.length_idFrame (s : State) : s.idFrame.length = s.idSize.toNat := Memory.length_readPrefix ..
@[simp] theorem State.length_bdFrame (s : State) : s.bdFrame.length = s.bdSize.toNat := Memory.length_readPrefix ..

/-! ### Channel requests -/

/-- What a ChanRead can do: go on waiting, begin to wait, break the run, or hand its answer on. -/
theorem State.chanRead_cases (h : Count) (k : List Byte → Option ChanErr → State → Host.Outcome State Fault Refusal)
    (s : State) :
    (s.readPending = true ∧ s.chanRead h k = .next s) ∨
    (s.readPending = false ∧
      (((s.nextRead h).1 = none ∧
          s.chanRead h k = .next { (s.nextRead h).2.log (.chanRead h) with readPending := true }) ∨
       ∃ a, (s.nextRead h).1 = some a ∧
        ((h.toNat < a.chunk.length ∧ s.chanRead h k = .refused .readLongerThanHint) ∨
         (a.chunk.length ≤ h.toNat ∧ s.chanRead h k =
            k a.chunk a.err (((s.nextRead h).2.log (.chanRead h)).log (.readAnswer a.chunk a.err)))))) := by
  cases hp : s.readPending with
  | true => left; exact ⟨rfl, by simp [State.chanRead, hp]⟩
  | false =>
    right
    refine ⟨rfl, ?_⟩
    cases hr : (s.nextRead h).1 with
    | none => left; exact ⟨rfl, by simp [State.chanRead, hp, hr]⟩
    | some a =>
      right
      refine ⟨a, rfl, ?_⟩
      by_cases hl : a.chunk.length ≤ h.toNat
      · right; exact ⟨hl, by simp [State.chanRead, hp, hr, hl]⟩
      · left; exact ⟨by omega, by simp [State.chanRead, hp, hr, hl]⟩

/-- What a ChanWrite can do: draw a free answer within the channel's duty, break the run, or hand its answer on. -/
theorem State.chanWrite_cases (w : List Byte)
    (k : Nat → Option ChanErr → State → Host.Outcome State Fault Refusal) (s : State) :
    (s.writeAnswers = [] ∧ ∃ n err, n ≤ w.length ∧ s.chanWrite w k =
      k n err (State.written w n err { s with freeDraws := s.freeDraws + 1 })) ∨
    ∃ a later, s.writeAnswers = a :: later ∧
      ((w.length < a.n ∧ s.chanWrite w k = .refused .writeCountTooLarge) ∨
       (a.n ≤ w.length ∧ s.chanWrite w k =
          k a.n a.err (State.written w a.n a.err { s with writeAnswers := later }))) := by
  cases hw : s.writeAnswers with
  | nil =>
    left
    exact ⟨rfl, (s.freeWrite w).n, (s.freeWrite w).err, Nat.min_le_right .., by simp [State.chanWrite, hw]⟩
  | cons a later =>
    right
    refine ⟨a, later, rfl, ?_⟩
    by_cases hl : a.n ≤ w.length
    · right; exact ⟨hl, by simp [State.chanWrite, hw, hl]⟩
    · left; exact ⟨by omega, by simp [State.chanWrite, hw, hl]⟩

/-! ### Escaping -/

theorem escAll_eq_flatten (p : List Byte) : escAll p = (p.map esc).flatten := by
  induction p with
  | nil => rfl
  | cons b p ih => simp [escAll, ih]

theorem escAll_append (p q : List Byte) : escAll (p ++ q) = escAll p ++ escAll q := by
  simp [escAll_eq_flatten]

/-- A byte's escape, case by case (R110). -/
theorem esc_cases (b : Byte) :
    (b = 0xC0 ∧ esc b = [0xDB, 0xDC]) ∨ (b = 0xDB ∧ esc b = [0xDB, 0xDD]) ∨
    (b ≠ 0xC0 ∧ b ≠ 0xDB ∧ esc b = [b]) := by
  by_cases h1 : b = 0xC0
  · left; subst h1; exact ⟨rfl, rfl⟩
  · by_cases h2 : b = 0xDB
    · right; left; subst h2; exact ⟨rfl, rfl⟩
    · right; right
      exact ⟨h1, h2, (if_neg h1).trans (if_neg h2)⟩

theorem length_frame (p : List Byte) : (frame p).length = 3 + (escAll p).length := by
  simp [frame, preamble]; omega

/-! ### The escape table (R113) -/

theorem escStep_normal_cases (c : Byte) :
    (c = 0xC0 ∧ escStep .normal c = (.boundary, .normal)) ∨
    (c = 0xDB ∧ escStep .normal c = (.enterEsc, .escaped)) ∨
    (c ≠ 0xC0 ∧ c ≠ 0xDB ∧ escStep .normal c = (.store c, .normal)) := by
  by_cases h1 : c = 0xC0
  · left; subst h1; exact ⟨rfl, rfl⟩
  · by_cases h2 : c = 0xDB
    · right; left; subst h2; exact ⟨rfl, rfl⟩
    · right; right
      exact ⟨h1, h2, (if_neg h1).trans (if_neg h2)⟩

theorem escStep_escaped_cases (c : Byte) :
    (c = 0xDC ∧ escStep .escaped c = (.store 0xC0, .normal)) ∨
    (c = 0xDD ∧ escStep .escaped c = (.store 0xDB, .normal)) ∨
    (c ≠ 0xDC ∧ c ≠ 0xDD ∧ escStep .escaped c = (.badEscape, .normal)) := by
  by_cases h1 : c = 0xDC
  · left; subst h1; exact ⟨rfl, rfl⟩
  · by_cases h2 : c = 0xDD
    · right; left; subst h2; exact ⟨rfl, rfl⟩
    · right; right
      exact ⟨h1, h2, (if_neg h1).trans (if_neg h2)⟩

/-- The next escape state is ESCAPED after `EnterEsc` only. -/
theorem escStep_snd (e : EscState) (c : Byte) :
    (escStep e c).2 = .escaped ↔ (escStep e c).1 = .enterEsc := by
  cases e with
  | normal => rcases escStep_normal_cases c with ⟨-, h⟩ | ⟨-, h⟩ | ⟨-, -, h⟩ <;> simp [h]
  | escaped => rcases escStep_escaped_cases c with ⟨-, h⟩ | ⟨-, h⟩ | ⟨-, -, h⟩ <;> simp [h]

end Sys2Proof.Machine
end

