-- ==== Sys2Proof/Laws/PerInstr.lean ====
section
/-! SUPPORT. A law stated for every command as syntax, one lemma per constructor: its word decodes to it, field by field
(30_encoding.md R86, R91). -/

namespace Sys2Proof.Laws.WordDecodes

/-- The command's word spells the command, with the operands the word holds. -/
def Statement (i : Instr) : Prop :=
  decodeWord (encodeWord i) =
    match i with
    | .decFeed byte => .decFeed byte
    | .encPut byte => .encPut byte
    | .encEnd => .encEnd
    | .encBlock len _ => .encBlock len
    | .decBlock cap hint => .decBlock cap hint

theorem decFeed (byte : Byte) : Statement (.decFeed byte) :=
  decodeWord_eq_decFeed.2
    ⟨BitVec.extractLsb'_append_eq_left (b := 0#20 ++ byte), extract_middle _ 0#20 byte, extract_lowest _ 0#20 byte⟩

theorem encPut (byte : Byte) : Statement (.encPut byte) :=
  decodeWord_eq_encPut.2
    ⟨BitVec.extractLsb'_append_eq_left (b := 0#20 ++ byte), extract_middle _ 0#20 byte, extract_lowest _ 0#20 byte⟩

theorem encEnd : Statement .encEnd := decodeWord_eq_encEnd.2 ⟨by decide, by decide⟩

theorem encBlock (len : BitVec 16) (payload : List Byte) : Statement (.encBlock len payload) :=
  decodeWord_eq_encBlock.2
    ⟨BitVec.extractLsb'_append_eq_left (b := 0#12 ++ len), extract_middle _ 0#12 len, extract_lowest _ 0#12 len⟩

theorem decBlock (cap hint : Count) : Statement (.decBlock cap hint) :=
  decodeWord_eq_decBlock.2
    ⟨BitVec.extractLsb'_append_eq_left (b := cap ++ hint), extract_middle _ cap hint, extract_lowest _ cap hint⟩

end Sys2Proof.Laws.WordDecodes
end

