-- ==== Sys2Proof/Laws/Step.lean ====
section
/-! SUPPORT. What a step can do, once: which of reset, micro-step and command it is, and the cases of each, so that no
invariant unfolds the step function. -/

namespace Sys2Proof.Machine

/-! ### One step -/

/-- A step of a machine that has been reset and has no reset to come. -/
theorem step_running {s : State} (h : s.running) : step s = if s.busy then decMicroStep s else acceptCommand s := by
  simp [step, cycle, advance, h.1, h.2]

/-- A step of a DEC_BLOCK in progress is a micro-step (R151). -/
theorem step_busy {s : State} (h : s.running) (hb : s.busy = true) : step s = decMicroStep s := by
  rw [step_running h, if_pos hb]

/-- With a byte cached, that micro-step scans it (R157). -/
theorem step_scan {s : State} {c : Byte} {rest : List Byte} (h : s.running) (hb : s.busy = true)
    (hc : s.bdCache = c :: rest) : step s = .next (scanByte c { s with bdCache := rest }) := by
  rw [step_busy h hb]; simp [decMicroStep, hc]

/-- A step of an asserted reset (R260). -/
theorem step_reset {s : State} {later : List Nat} (h : s.resetIn = 0 :: later) :
    step s = .next { s.assertReset with resetIn := later } := by
  simp only [step, cycle, h]

/-- A run of one more step. -/
theorem runSteps_succ {n : Nat} {s u : State} (h : step s = .next u) : runSteps (n + 1) s = runSteps n u := by
  have h' : Sys2Proof.core.step s = .next u := h
  simp only [runSteps, Host.Core.run]
  rw [h']

/-- A run goes on from where a shorter run of it ended. -/
theorem runSteps_add {m n : Nat} {s u : State} (h : runSteps m s = .next u) : runSteps (m + n) s = runSteps n u := by
  induction m generalizing s with
  | zero => cases h; rw [Nat.zero_add]
  | succ m ih =>
    have hn : m + 1 + n = m + n + 1 := by omega
    cases hs : step s with
    | next v => rw [runSteps_succ hs] at h; rw [hn, runSteps_succ hs, ih h]
    | fault r => cases r
    | refused r =>
      have hs' : Sys2Proof.core.step s = .refused r := hs
      simp only [runSteps, Host.Core.run] at h
      rw [hs'] at h
      cases h

/-- What a step that answers a next state has done: a reset, or, on the state with the reset's time brought nearer, a
micro-step of a DEC_BLOCK, a command, an illegal word's answer, or nothing at the end of a run. -/
theorem step_cases {s t : State} (h : step s = .next t) :
    (∃ later, s.resetIn = 0 :: later ∧ t = { s.assertReset with resetIn := later }) ∨
    s.resetIn.head? ≠ some 0 ∧ s.hasReset = true ∧ ∃ resets,
      (s.busy = true ∧ decMicroStep { s with resetIn := resets } = .next t) ∨
      (s.busy = false ∧
        ((s.port = [] ∧ t = { s with resetIn := resets }) ∨
         (∃ i rest, decode s.port = .command i rest ∧ exec i { s with resetIn := resets, port := rest } = .next t) ∨
         (∃ w rest, decode s.port = .illegal w rest ∧
           t = State.raise .illegalCommand { s with resetIn := resets, port := rest }))) := by
  have main : ∀ resets, advance { s with resetIn := resets } = .next t → s.hasReset = true ∧
      ((s.busy = true ∧ decMicroStep { s with resetIn := resets } = .next t) ∨
      (s.busy = false ∧
        ((s.port = [] ∧ t = { s with resetIn := resets }) ∨
         (∃ i rest, decode s.port = .command i rest ∧ exec i { s with resetIn := resets, port := rest } = .next t) ∨
         (∃ w rest, decode s.port = .illegal w rest ∧
           t = State.raise .illegalCommand { s with resetIn := resets, port := rest })))) := by
    intro resets ha
    simp only [advance] at ha
    split at ha
    · next hreset =>
      refine ⟨hreset, ?_⟩
      split at ha
      · next hb => exact .inl ⟨hb, ha⟩
      · next hb =>
        refine .inr ⟨by simpa using hb, ?_⟩
        simp only [acceptCommand] at ha
        split at ha
        · next hd =>
          left
          refine ⟨?_, by simpa using ha.symm⟩
          cases hp : s.port with
          | nil => rfl
          | cons x xs =>
            rw [hp] at hd
            cases x with
            | byte b => simp [decode] at hd
            | word w =>
              simp only [decode, decodeAt] at hd
              split at hd <;> first | (split at hd <;> simp at hd) | simp at hd
        · next i rest hd => exact .inr (.inl ⟨i, rest, hd, ha⟩)
        · next w rest hd => exact .inr (.inr ⟨w, rest, hd, by simpa [rejectWord] using ha.symm⟩)
        · simp at ha
        · simp at ha
    · simp at ha
  simp only [step, cycle] at h
  split at h
  · next hr =>
    obtain ⟨h1, h2⟩ := main [] (by rw [← hr]; exact h)
    exact .inr ⟨by simp [hr], h1, [], h2⟩
  · next later hr => exact .inl ⟨later, hr, by simpa using h.symm⟩
  · next n later hr =>
    obtain ⟨h1, h2⟩ := main (n :: later) h
    exact .inr ⟨by simp [hr], h1, n :: later, h2⟩

/-! ### The commands -/

/-- DEC_FEED always completes, in one of its four cases. -/
theorem execDecFeed_cases (c : Byte) (s : State) :
    ∃ t, execDecFeed c s = .next t ∧
      (((escStep s.idState c).1 = .boundary ∧ t = feedBoundary s) ∨
       ((escStep s.idState c).1 = .enterEsc ∧ t = feedEnterEsc s) ∨
       (∃ v, (escStep s.idState c).1 = .store v ∧ t = feedStore v s) ∨
       ((escStep s.idState c).1 = .badEscape ∧ t = feedBadEscape s)) := by
  cases h : (escStep s.idState c).1 <;> exact ⟨_, by simp only [execDecFeed, h]; rfl, by simp⟩

/-- ENC_PUT always completes: the bytes are appended, or the frame is discarded. -/
theorem execEncPut_cases (b : Byte) (s : State) :
    (s.cfg.bufSize < s.teSize.toNat + (s.putBytes b).length ∧ execEncPut b s = .next (teDiscard s)) ∨
    (s.teSize.toNat + (s.putBytes b).length ≤ s.cfg.bufSize ∧
      execEncPut b s = .next (s.teAppend (s.putBytes b)).respondOk) := by
  by_cases h : s.cfg.bufSize < s.teSize.toNat + (s.putBytes b).length
  · exact .inl ⟨h, by simp [execEncPut, State.teOverflows, h]⟩
  · exact .inr ⟨by omega, by simp [execEncPut, State.teOverflows, h]⟩

/-- ENC_END always completes: the frame is emitted, or discarded. -/
theorem execEncEnd_cases (s : State) :
    (s.cfg.bufSize < s.teSize.toNat + s.endBytes.length ∧ execEncEnd s = .next (teDiscard s)) ∨
    (s.teSize.toNat + s.endBytes.length ≤ s.cfg.bufSize ∧ execEncEnd s = .next (teEmit (s.teAppend s.endBytes))) := by
  by_cases h : s.cfg.bufSize < s.teSize.toNat + s.endBytes.length
  · exact .inl ⟨h, by simp [execEncEnd, State.teOverflows, h]⟩
  · exact .inr ⟨by omega, by simp [execEncEnd, State.teOverflows, h]⟩

/-- The state an ENC_BLOCK leaves whose write was answered (n, err), from the state with that answer taken. -/
def encBlockEnd (p : List Byte) (n : Nat) (err : Option ChanErr) (s : State) : State :=
  (s.written (frame p) n err).respond (writeStatus err) (count n) 0 [] err

/-- What ENC_BLOCK can do: overflow, complete with a free answer or the channel's, or break the run. -/
theorem execEncBlock_cases (p : List Byte) (s : State) :
    (s.cfg.bufSize < (frame p).length ∧ execEncBlock p s = .next (s.raise .bufferOverflow)) ∨
    ((frame p).length ≤ s.cfg.bufSize ∧
      ((s.writeAnswers = [] ∧ ∃ n err, n ≤ (frame p).length ∧
          execEncBlock p s = .next (encBlockEnd p n err { s with freeDraws := s.freeDraws + 1 })) ∨
       ∃ a later, s.writeAnswers = a :: later ∧
        (((frame p).length < a.n ∧ execEncBlock p s = .refused .writeCountTooLarge) ∨
         (a.n ≤ (frame p).length ∧
          execEncBlock p s = .next (encBlockEnd p a.n a.err { s with writeAnswers := later }))))) := by
  by_cases h : s.cfg.bufSize < (frame p).length
  · exact .inl ⟨h, by simp [execEncBlock, h]⟩
  · refine .inr ⟨by omega, ?_⟩
    simp only [execEncBlock, if_neg h]
    exact State.chanWrite_cases (frame p) _ s

/-! ### The micro-steps of DEC_BLOCK -/

/-- What a scanned byte does, case by case (R159 to R165). `e` is the escape state the table gives. -/
theorem scanByte_cases (c : Byte) (s : State) :
    (s.bdSynced = false ∧ scanByte c s = { s with bdSynced := syncAfter c }) ∨
    (s.bdSynced = true ∧
      (((escStep s.bdEsc c).1 = .enterEsc ∧ scanByte c s = { s with bdEsc := .escaped }) ∨
       (∃ v, (escStep s.bdEsc c).1 = .store v ∧ s.bdSize.toNat < s.opCap.toNat ∧
          scanByte c s = State.bdAppend v { s with bdEsc := .normal }) ∨
       (∃ v, (escStep s.bdEsc c).1 = .store v ∧ s.opCap.toNat ≤ s.bdSize.toNat ∧
          scanByte c s =
            State.respond .bufferOverflow 0 s.cacheCount [] none { s with bdEsc := .normal, bdSize := 0 }) ∨
       ((escStep s.bdEsc c).1 = .badEscape ∧
          scanByte c s =
            State.respond .unknownEscapedByte 0 s.cacheCount [] none { s with bdEsc := .normal, bdSize := 0 }) ∨
       ((escStep s.bdEsc c).1 = .boundary ∧ s.opCap.toNat < s.bdSize.toNat ∧
          scanByte c s =
            State.respond .bufferOverflow 0 s.cacheCount [] none { s with bdEsc := .normal, bdSize := 0 }) ∨
       ((escStep s.bdEsc c).1 = .boundary ∧ s.bdSize.toNat ≤ s.opCap.toNat ∧
          scanByte c s =
            State.respond .frame s.bdSize s.cacheCount s.bdFrame none { s with bdEsc := .normal, bdSize := 0 }))) := by
  cases hs : s.bdSynced with
  | false => exact .inl ⟨rfl, by simp [scanByte, hs, huntByte]⟩
  | true =>
    refine .inr ⟨rfl, ?_⟩
    have next : (escStep s.bdEsc c).1 ≠ .enterEsc → (escStep s.bdEsc c).2 = .normal := by
      intro h
      have := mt (escStep_snd s.bdEsc c).1 h
      cases h2 : (escStep s.bdEsc c).2 <;> simp_all
    cases ha : (escStep s.bdEsc c).1 with
    | enterEsc => left; exact ⟨rfl, by simp [scanByte, hs, syncedByte, ha, (escStep_snd s.bdEsc c).2 ha]⟩
    | store v =>
      have hn := next (by simp [ha])
      right
      by_cases hc : s.opCap.toNat ≤ s.bdSize.toNat
      · right; left
        exact ⟨v, rfl, hc, by simp [scanByte, hs, syncedByte, ha, scanStore, hc, State.cacheCount]⟩
      · left
        exact ⟨v, rfl, by omega, by simp [scanByte, hs, syncedByte, ha, hn, scanStore, hc]⟩
    | badEscape =>
      have hn := next (by simp [ha])
      right; right; right; left
      exact ⟨rfl, by simp [scanByte, hs, syncedByte, ha, hn, scanBadEscape, State.cacheCount]⟩
    | boundary =>
      have hn := next (by simp [ha])
      right; right; right; right
      by_cases hc : s.opCap.toNat < s.bdSize.toNat
      · left
        exact ⟨rfl, hc, by simp [scanByte, hs, syncedByte, ha, hn, scanBoundary, hc, State.cacheCount]⟩
      · right
        exact ⟨rfl, by omega, by
          simp [scanByte, hs, syncedByte, ha, hn, scanBoundary, hc, State.cacheCount, State.bdFrame]⟩

/-- What a micro-step can do (R153 to R157): scan the first cached byte; or, with an empty cache, go on waiting, begin to
wait, break the run, end on an error, end on no data, or fill the cache. -/
theorem decMicroStep_cases (s : State) :
    (∃ c rest, s.bdCache = c :: rest ∧ decMicroStep s = .next (scanByte c { s with bdCache := rest })) ∨
    (s.bdCache = [] ∧
      ((s.readPending = true ∧ decMicroStep s = .next s) ∨
       (s.readPending = false ∧
        (((s.nextRead s.opHint).1 = none ∧
            decMicroStep s = .next { (s.nextRead s.opHint).2.log (.chanRead s.opHint) with readPending := true }) ∨
         ∃ a, (s.nextRead s.opHint).1 = some a ∧
          ((s.opHint.toNat < a.chunk.length ∧ decMicroStep s = .refused .readLongerThanHint) ∨
           (a.chunk.length ≤ s.opHint.toNat ∧
            ((∃ e, a.err = some e ∧ decMicroStep s = .next
                (State.respond .channelError s.bdSize (count a.chunk.length) s.bdFrame (some e)
                  { s.afterRead a with bdCache := a.chunk })) ∨
             (a.err = none ∧ a.chunk = [] ∧ decMicroStep s = .next (State.respond .noData 0 0 [] none (s.afterRead a))) ∨
             (a.err = none ∧ a.chunk ≠ [] ∧ decMicroStep s = .next { s.afterRead a with bdCache := a.chunk }))))))))
    := by
  cases hc : s.bdCache with
  | cons c rest => exact .inl ⟨c, rest, rfl, by simp [decMicroStep, hc]⟩
  | nil =>
    refine .inr ⟨rfl, ?_⟩
    have hm : decMicroStep s = decRead s := by simp [decMicroStep, hc]
    rw [hm]
    rcases State.chanRead_cases s.opHint (fun chunk err s1 =>
        let s2 := { s1 with bdCache := chunk }
        match err with
        | some e => .next (s2.respond .channelError s2.bdSize s2.cacheCount s2.bdFrame (some e))
        | none => if chunk = [] then .next (s1.respond .noData 0 0 [] none) else .next s2) s with
      h | ⟨hp, h | ⟨a, hr, h⟩⟩
    · exact .inl h
    · exact .inr ⟨hp, .inl h⟩
    · refine .inr ⟨hp, .inr ⟨a, hr, ?_⟩⟩
      rcases h with h | ⟨hl, h⟩
      · exact .inl h
      · refine .inr ⟨hl, ?_⟩
        change decRead s = _ at h
        cases he : a.err with
        | some e =>
          left
          exact ⟨e, rfl, by rw [h, he]; simp [State.afterRead, he, State.cacheCount, State.bdFrame]⟩
        | none =>
          right
          by_cases hn : a.chunk = []
          · left; exact ⟨rfl, hn, by rw [h, he]; simp [hn, State.afterRead, he]⟩
          · right; exact ⟨rfl, hn, by rw [h, he]; simp [hn, State.afterRead, he]⟩

/-- Where an answer is listed, the read has the first one. -/
theorem State.nextRead_listed {s : State} {a : Option ReadAnswer} {later : List (Option ReadAnswer)} (h : Count)
    (hr : s.readAnswers = a :: later) : s.nextRead h = (a, { s with readAnswers := later }) := by
  simp [State.nextRead, hr]

end Sys2Proof.Machine
end

