-- ==== Sys2Proof/Machine/AssemblerText.lean ====
section
/-! DEFINITION. The assembler's notation as text: one command per line, `;` starting a comment, numbers in decimal or
`0x` hexadecimal (30_encoding.md R98, R99). What R98 leaves to the assembler (blanks, blank lines, letter case) is log 12. -/

namespace Sys2Proof.Machine

/-- A piece of an assembler line. -/
inductive Token where
  | word (w : String)
  | number (n : Nat)
  | lbracket
  | rbracket
  | comma
deriving DecidableEq, Repr

/-- The value of a digit, in either case. -/
def digitValue (c : Char) : Option Nat :=
  if '0' ≤ c ∧ c ≤ '9' then some (c.toNat - '0'.toNat)
  else if 'a' ≤ c ∧ c ≤ 'f' then some (c.toNat - 'a'.toNat + 10)
  else if 'A' ≤ c ∧ c ≤ 'F' then some (c.toNat - 'A'.toNat + 10)
  else none

/-- Digits of a base, behind the value `acc` of the digits before them. -/
def digits (base : Nat) : List Char → Nat → Option Nat
  | [], acc => some acc
  | c :: cs, acc =>
    match digitValue c with
    | some d => if d < base then digits base cs (acc * base + d) else none
    | none => none

/-- A number: `0x` and hexadecimal digits, or decimal digits. -/
def asmNumber : List Char → Option Nat
  | '0' :: 'x' :: c :: cs => digits 16 (c :: cs) 0
  | cs => digits 10 cs 0

/-- The characters held between two separators, as a token. -/
def asmHeld : List Char → Option (List Token)
  | [] => some []
  | c :: cs => if c.isDigit then (asmNumber (c :: cs)).map fun n => [.number n] else some [.word (String.ofList (c :: cs))]

/-- Whether a character only separates tokens. -/
def isBlank (c : Char) : Bool := c == ' ' || c == '\t' || c == '\r'

/-- The token a character is by itself. -/
def punctuation (c : Char) : Option Token :=
  if c = '[' then some .lbracket else if c = ']' then some .rbracket else if c = ',' then some .comma else none

/-- The tokens of a line, behind the characters held of the token being read; a comment ends the line. -/
def tokens : List Char → List Char → Option (List Token)
  | [], held => asmHeld held
  | c :: cs, held =>
    if c = ';' then asmHeld held
    else if isBlank c then (asmHeld held).bind fun t => (tokens cs []).map (t ++ ·)
    else match punctuation c with
      | some p => (asmHeld held).bind fun t => (tokens cs []).map (t ++ p :: ·)
      | none => tokens cs (held ++ [c])

/-- A list's numbers behind its first, each with the comma before it, and the closing bracket. -/
def listTail : List Token → Option (List Nat)
  | [.rbracket] => some []
  | .comma :: .number n :: ts => (listTail ts).map (n :: ·)
  | _ => none

/-- A list of numbers in brackets. -/
def listOf : List Token → Option (List Nat)
  | [.lbracket, .rbracket] => some []
  | .lbracket :: .number n :: ts => (listTail ts).map (n :: ·)
  | _ => none

/-- A command's word with the tokens of its operands (R98, R99). -/
def parseCommand (w : String) (operands : List Token) : Option AsmLine :=
  if w = "enc.block" then (listOf operands).map .encBlock
  else if w = "dec.feeds" then (listOf operands).map .decFeeds
  else if w = "enc.frame" then (listOf operands).map .encFrame
  else match operands with
    | [] => if w = "enc.end" then some .encEnd else none
    | [.number b] => if w = "dec.feed" then some (.decFeed b) else if w = "enc.put" then some (.encPut b) else none
    | [.number cap, .comma, .number hint] => if w = "dec.block" then some (.decBlock cap hint) else none
    | _ => none

/-- A line of text: a command, or nothing but blanks and a comment. -/
def parseLine (cs : List Char) : Option (List AsmLine) :=
  match tokens cs [] with
  | some [] => some []
  | some (.word w :: operands) => (parseCommand w operands).map ([·])
  | _ => none

/-- The lines of a text, behind the characters held of the line being read. -/
def textLines : List Char → List Char → List (List Char)
  | [], held => [held]
  | c :: cs, held => if c = '\n' then held :: textLines cs [] else textLines cs (held ++ [c])

/-- The commands of a list of lines; none where a line is no command. -/
def parseLines : List (List Char) → Option (List AsmLine)
  | [] => some []
  | l :: ls => (parseLine l).bind fun a => (parseLines ls).map (a ++ ·)

/-- What a program's text puts on the command port; none is an assembly error. -/
def assembleText (text : String) : Option (List PortItem) := (parseLines (textLines text.toList [])).bind assemble

end Sys2Proof.Machine
end

