-- ==== Sys2Proof/Tests/Slice0.lean ====
section
/-! SUPPORT. The model's own tests: expected results are the spec's words, encodings and worked examples; and, for each
statement with hypotheses, concrete data that meet them together. -/

namespace Sys2Proof.Tests

open Sys2Proof.Machine

/-! ### Well-formedness (R89) -/

theorem test_wf_encBlock : (Instr.encBlock 2 [0x0A, 0xC0]).wf = true := by decide
theorem test_wf_refuses_a_payload_too_short : (Instr.encBlock 2 [0x0A]).wf = false := by decide
theorem test_wf_refuses_a_payload_too_long : (Instr.encBlock 0 [0x0A]).wf = false := by decide

/-! ### Decoding: words written out bit by bit from R86, and from R98, R138, R170, R219 -/

theorem test_decode_decFeed : decode [.word 0b00010000000000000000000011011011] = .command (.decFeed 0xDB) [] := by decide
theorem test_decode_encPut : decode [.word 0b00100000000000000000000000001010] = .command (.encPut 0x0A) [] := by decide
theorem test_decode_encEnd : decode [.word 0b00110000000000000000000000000000] = .command .encEnd [] := by decide
theorem test_decode_encBlock :
    decode [.word 0b01000000000000000000000000000001, .byte 0xC0, .word 0x30000000] =
      .command (.encBlock 1 [0xC0]) [.word 0x30000000] := by decide
theorem test_decode_decBlock : decode [.word 0x52000800] = .command (.decBlock 2048 2048) [] := by decide
theorem test_decode_decBlock_fields :
    decode [.word 0b01011111111111111100000000000001] = .command (.decBlock 16383 1) [] := by decide
theorem test_decode_reserved_bit_of_decFeed :
    decode [.word 0b00010000000000000000000100000000, .byte 0] = .illegal 0x10000100 [.byte 0] := by decide
theorem test_decode_reserved_bit_of_encBlock :
    decode [.word 0b01000000000000010000000000000001, .byte 0] = .illegal 0x40010001 [.byte 0] := by decide
theorem test_decode_reserved_opcode : decode [.word 0x00000000] = .illegal 0x00000000 [] := by decide

theorem test_encode_encBlock : encode (.encBlock 2 [0x0A, 0xC0]) = [.word 0x40000002, .byte 0x0A, .byte 0xC0] := by decide

/-- A payload word whose bits are numbered on from the command word's. -/
theorem test_decodeTableWord : decodeTableWord 48 0xC00A40000002 = some (.encBlock 2 [0x0A, 0xC0]) := by decide

/-! ### The assembler's text (R98, R99) -/

theorem test_assembler_lines :
    assembleText "dec.feed 0xC0 ; a comment\nenc.block [0x0A, 192]\ndec.block 160, 8" =
      some [.word 0x100000C0, .word 0x40000002, .byte 0x0A, .byte 0xC0, .word 0x50280008] := by decide
theorem test_assembler_pseudo : assembleText "enc.frame [1]\ndec.feeds []" = some [.word 0x20000001, .word 0x30000000] := by
  decide
theorem test_assembler_operand_out_of_range : assembleText "dec.feed 256" = none := by decide

/-! ### One step each -/

/-- A just-reset machine with these items on its port. -/
def given (items : List PortItem) : State := { State.reset with port := items }

/-- What a state shows of the next one; `none` where the step stops. -/
def sees {α : Type} (f : State → α) : Host.Outcome State Fault Refusal → Option α
  | .next t => some (f t)
  | .fault _ => none
  | .refused _ => none

/-- R199: DEC_FEED 0xDB from reset. -/
theorem test_decFeed_esc :
    sees (fun t => (t.trace, t.idState, t.idSize)) (step (given [.word 0x100000DB])) =
      some ([answeredOk], .escaped, 0) := by decide
/-- R199: DEC_FEED 0x41 in ESCAPED. -/
theorem test_decFeed_bad_escape :
    sees (fun t => (t.trace, t.idState, t.idSize)) (step { given [.word 0x10000041] with idState := .escaped }) =
      some ([answered 0x40000000 [] none], .normal, 0) := by decide

/-- R219: the first put opens the frame, `te_size` = 3. -/
theorem test_encPut_opens :
    sees (fun t => (t.trace, t.teSize, t.teFrame)) (step (given [.word 0x2000000A])) =
      some ([answeredOk], 3, [0xFF, 0xC0, 0x0A]) := by decide
/-- R218 (c): with `te_size = BUF_SIZE - 1`, ENC_PUT of 0xC0 overflows. -/
theorem test_encPut_overflow :
    sees (fun t => (t.trace, t.teSize)) (step { given [.word 0x200000C0] with teSize := 2047 }) =
      some ([answered 0x30000000 [] none], 0) := by decide

/-- R215: ENC_END of an empty frame. -/
theorem test_encEnd_empty :
    sees (fun t => (t.trace, t.teSize)) (step (given [.word 0x30000000])) =
      some ([.txFrame [0xFF, 0xC0, 0xC0], answeredOk], 0) := by decide
/-- R216: at `te_size = BUF_SIZE`. -/
theorem test_encEnd_overflow :
    sees (fun t => (t.trace, t.teSize)) (step { given [.word 0x30000000] with teSize := 2048 }) =
      some ([answered 0x30000000 [] none], 0) := by decide

/-- R138: scenario 1, with the channel answering (8, none). -/
theorem test_encBlock :
    sees State.trace (step { given
        [.word 0x40000005, .byte 0x0A, .byte 0x01, .byte 0x00, .byte 0xCE, .byte 0xE4] with writeAnswers := [⟨8, none⟩] }) =
      some [.chanWrite [0xFF, 0xC0, 0x0A, 0x01, 0x00, 0xCE, 0xE4, 0xC0], .writeAnswer 8 none, answered 0x00020000 [] none] := by decide

/-- R170: the entry of `dec.block 2048, 2048`. -/
theorem test_decBlock_entry :
    sees (fun t => (t.trace, t.busy, t.opCap, t.opHint)) (step (given [.word 0x52000800])) =
      some ([], true, 2048, 2048) := by decide
/-- R164, R166: a boundary with two bytes of a frame held and one byte behind it. -/
theorem test_decBlock_frame :
    sees (fun t => (t.trace, t.busy, t.bdSize, t.bdCache))
        (step { State.reset with
          busy := true, opCap := 2048, opHint := 2048, bdSynced := true, bdBuf := [(0, 0x0A), (1, 0x01)], bdSize := 2
          bdCache := [0xC0, 0xFF] }) =
      some ([answered 0x10008001 [0x0A, 0x01] none], false, 0, [0xFF]) := by decide

/-- R90: an illegal word with OPC = 0x4 consumes no payload byte and changes nothing. -/
theorem test_illegal :
    sees id (step (given [.word 0x40010001, .word 0x30000000])) =
      some { given [.word 0x30000000] with trace := [answered 0x60000000 [] none] } := by decide

/-- The word placed is the command the next step performs. -/
theorem test_withFetchWord :
    sees (fun t => (t.trace, t.teSize)) (step (State.reset.withFetchWord 32 0x200000C0)) = some ([answeredOk], 4) := by
  decide

/-! ### Witnesses: data that meet a statement's hypotheses together -/

/-- A build with BUF_SIZE = 8, just reset. -/
def idle : State := { State.reset with cfg := ⟨8, by decide, by decide⟩ }

/-- The same with a DEC_BLOCK of CAP 2 and HINT 8 in progress. -/
def busy : State := { idle with busy := true, opCap := 2, opHint := 8 }

/-- The same, synchronised. -/
def synced : State := { busy with bdSynced := true }

theorem idle_running : idle.running := ⟨rfl, rfl⟩

theorem empty_buffer (cfg : Config) : BufferInv cfg [] 0 where
  wf := List.Pairwise.nil
  within := fun _ h => absurd h List.not_mem_nil
  written := fun _ h => absurd h (Nat.not_lt_zero _)
  bound := Nat.zero_le _

theorem busy_inv (cache : List Byte) (h : cache.length ≤ 8) (items : List (Option ReadAnswer)) (inputs : List PortItem) :
    Inv { busy with bdCache := cache, readAnswers := items, port := inputs } where
  txi := ⟨empty_buffer _, .inl rfl, fun h => absurd rfl h⟩
  rxi := empty_buffer _
  rxb := ⟨empty_buffer _, fun _ => ⟨rfl, rfl⟩, h, fun _ => (by decide : (2#14).toNat ≤ 8 ∧ (8#14).toNat ≤ 8),
    fun h => nomatch h⟩

theorem witness_DecodeOfEncodeIsTheCommand :
    (Instr.encBlock 0 []).wf = true ∧ (Instr.encBlock 2 [0x0A, 0xC0]).wf = true ∧ (Instr.decFeed 0xFF).wf = true := by decide

theorem witness_DecodedCommandIsWhatWasOnThePort :
    decode [.word 0x40000001, .byte 0xDB, .byte 0x00] = .command (.encBlock 1 [0xDB]) [.byte 0x00] := by decide

theorem witness_OperandsAreUnsignedFields :
    decodeWord 0x100000FF = .decFeed 0xFF ∧ decodeWord 0x200000FF = .encPut 0xFF ∧
    decodeWord 0x4000FFFF = .encBlock 0xFFFF ∧ decodeWord 0x5FFFFFFF = .decBlock 0x3FFF 0x3FFF := by decide

theorem witness_IllegalWordIsAnsweredAndChangesNothing :
    let s := { idle with port := [.word 0x60000000, .byte 1] }
    s.running ∧ s.busy = false ∧ decodeWord 0x60000000 = .illegal ∧ s.port = .word 0x60000000 :: [.byte 1] :=
  ⟨idle_running, rfl, by decide, rfl⟩

theorem witness_EscapeTransitionTable :
    (0xFF : Byte) ≠ 0xC0 ∧ (0xFF : Byte) ≠ 0xDB ∧ (0xC0 : Byte) ≠ 0xDC ∧ (0xC0 : Byte) ≠ 0xDD := by decide

theorem witness_UnescapingInvertsEscaping :
    (([0xDB, 0xC0] : List Byte).map esc).flatten[0]? = some 0xDB ∧
    (([0xDB, 0xC0] : List Byte).map esc).flatten[2]? = some 0xDB := by decide

theorem witness_DecodersFollowTheEscapeTable :
    let s := { synced with bdCache := [0xDB, 0xDC, 0xC0, 1] }
    (s.running ∧ s.busy = true ∧ s.bdSynced = true ∧ s.bdCache = [0xDB, 0xDC, 0xC0] ++ [1] ∧
      (∀ k < [(0xDB : Byte), 0xDC, 0xC0].length, ∀ u, runSteps k s = .next u → u.busy = true) ∧
      ∃ t, runSteps [(0xDB : Byte), 0xDC, 0xC0].length s = .next t) ∧
    ∃ t, step idle = .next t ∧ idle.resetIn.head? ≠ some 0 ∧
      ¬(idle.busy = true ∧ idle.bdSynced = true ∧ idle.bdCache ≠ []) := by
  refine ⟨⟨idle_running, rfl, rfl, rfl, ?_, _, rfl⟩, _, rfl, by decide, by decide⟩
  intro k hk u hu
  match k, hk with
  | 0, _ => cases hu; rfl
  | 1, _ => cases hu; rfl
  | 2, _ => cases hu; rfl

theorem witness_EncBlockOverflowsExactlyPastBufSize :
    3 + [0, 0, 0, 0, 0xC0].length + [0, 0, 0, 0, 0xC0].count (0xC0 : Byte) + [0, 0, 0, 0, 0xC0].count 0xDB > idle.cfg.bufSize ∧
    3 + [0, 0, 0, 0xC0].length + [0, 0, 0, 0xC0].count (0xC0 : Byte) + [0, 0, 0, 0xC0].count 0xDB ≤ idle.cfg.bufSize ∧
    ∃ t, exec (.encBlock 4 [0, 0, 0, 0xC0]) { idle with writeAnswers := [⟨8, none⟩] } = .next t :=
  ⟨by decide, by decide, _, rfl⟩

theorem witness_EncBlockWritesTheFrameOnce :
    let s := { idle with writeAnswers := [⟨8, some ChanErr.first⟩] }
    (frame [0, 0, 0, 0xC0]).length ≤ s.cfg.bufSize ∧ s.writeAnswers = ⟨8, some ChanErr.first⟩ :: [] ∧
      8 ≤ (frame [0, 0, 0, 0xC0]).length := by decide

theorem witness_EncBlockNeverWaits : (frame [0, 0, 0, 0xC0]).length ≤ idle.cfg.bufSize ∧ idle.writeAnswers = [] := by decide

theorem witness_EncPutAppendsTheEscapedByte :
    idle.teSize.toNat + ([0xFF, 0xC0] ++ esc 0xC0).length ≤ idle.cfg.bufSize ∧
    { idle with teSize := 6 }.teSize.toNat + ([] ++ esc 0xC0).length ≤ idle.cfg.bufSize := by decide

theorem witness_EncPutOverflowDiscardsTheFrame :
    let s := { idle with teSize := 7 }
    s.teSize.toNat + ((if s.teSize = 0 then [0xFF, 0xC0] else []) ++ esc 0xC0).length > s.cfg.bufSize := by decide

theorem witness_EncEndEmitsTheFrame :
    let s := { idle with teSize := 7 }
    s.teSize.toNat + ((if s.teSize = 0 then [0xFF, 0xC0] else []) ++ [(0xC0 : Byte)]).length ≤ s.cfg.bufSize := by decide

theorem witness_EncEndOverflowsOnlyAtAFullBuffer :
    { idle with teSize := 8 }.teSize.toNat ≤ idle.cfg.bufSize ∧ { idle with teSize := 8 }.teSize.toNat = idle.cfg.bufSize := by
  decide

theorem witness_IncrementalEncoderEqualsBlockEncoder :
    idle.teSize = 0 ∧ (frame [0, 0, 0, 0xC0]).length ≤ idle.cfg.bufSize ∧
    idle.cfg.bufSize < (frame [0, 0, 0, 0, 0xC0, 1]).length ∧
    4 < [(0 : Byte), 0, 0, 0, 0xC0, 1].length ∧ (frame ([0, 0, 0, 0, 0xC0, 1].drop (4 + 1))).length ≤ idle.cfg.bufSize := by decide

theorem witness_FeedEndDeliversTheFrame : idle.idState = .normal ∧ { idle with idSize := 2 }.idState = .normal := by decide

theorem witness_FeedEscapesStoresOrOverflows :
    let escaped := { idle with idState := .escaped, idSize := 7 }
    (idle.idState = .normal ∧ (0xFF : Byte) ≠ 0xC0 ∧ (0xFF : Byte) ≠ 0xDB) ∧ escaped.idState = .escaped ∧
    idle.idSize.toNat < idle.cfg.bufSize ∧ escaped.idSize.toNat < escaped.cfg.bufSize ∧
    { escaped with idSize := 8 }.idSize.toNat = escaped.cfg.bufSize := by decide

theorem witness_FeedBadEscapeDiscardsTheFrame :
    { idle with idState := .escaped }.idState = .escaped ∧ (0xC0 : Byte) ≠ 0xDC ∧ (0xC0 : Byte) ≠ 0xDD := by decide

theorem witness_DeliveredFramesHaveAtLeastTwoBytes :
    let s := { idle with idBuf := [(0, 0x0A), (1, 0x01)], idSize := 2, port := [.word 0x100000C0] }
    ∃ t, step s = .next t ∧ TraceItem.rxFrame [0x0A, 0x01] ∈ t.trace ∧ TraceItem.rxFrame [0x0A, 0x01] ∉ s.trace :=
  ⟨_, rfl, by decide, by decide⟩

theorem witness_FeedingAWireFrameDeliversThePayload :
    let s := { idle with idSize := 7 }
    idle.idState = .normal ∧ [1, 2].length ≤ idle.cfg.bufSize ∧ idle.idSize = 0 ∧ s.idState = .normal ∧
    0 < s.idSize.toNat ∧ s.idSize.toNat < s.cfg.bufSize ∧ 2 ≤ [1, 2].length := by decide

theorem witness_FeedingAnOversizedFrameOverflows :
    idle.idState = .normal ∧ idle.idSize = 0 ∧ (List.replicate 8 (0xC0 : Byte)).length = idle.cfg.bufSize := by decide

theorem witness_DecBlockReadsOnlyWithAnEmptyCache :
    (∀ a ∈ [(⟨[1, 2], some ChanErr.first⟩ : ReadAnswer), ⟨[], none⟩, ⟨[1, 2, 3, 4, 5, 6, 7, 8], none⟩],
      let s := { busy with readAnswers := [some a] }
      s.running ∧ s.busy = true ∧ s.bdCache = [] ∧ s.readPending = false ∧ s.nextRead s.opHint = (some a, busy) ∧
        s.readAnswers = some a :: [] ∧ a.chunk.length ≤ s.opHint.toNat) ∧
    ∃ t, step { busy with bdCache := [0xC0] } = .next t := by
  refine ⟨?_, _, rfl⟩
  simp only [State.running]
  decide

theorem witness_HuntingDiscardsUpToTheFirstEnd :
    let s := { busy with bdCache := [0xC0, 1] }
    s.running ∧ s.busy = true ∧ s.bdSynced = false ∧ s.bdCache = 0xC0 :: [1] := ⟨idle_running, rfl, rfl, rfl⟩

theorem witness_ScanStoresBelowCapacity :
    let s := { synced with bdCache := [0xDB], bdSize := 1 }
    s.running ∧ s.busy = true ∧ s.bdSynced = true ∧ s.bdCache = 0xDB :: [] ∧ s.bdEsc = .normal ∧
    { s with bdEsc := .escaped, bdCache := [0xDD] }.bdEsc = .escaped ∧ s.bdSize.toNat < s.opCap.toNat :=
  ⟨idle_running, rfl, rfl, rfl, rfl, rfl, by decide⟩

theorem witness_ScanOverflowsAtCapacity :
    let s := { synced with bdCache := [0xDC], bdSize := 2 }
    s.running ∧ s.busy = true ∧ s.bdSynced = true ∧ s.bdCache = 0xDC :: [] ∧ s.bdEsc = .normal ∧
    (0xDC : Byte) ≠ 0xC0 ∧ (0xDC : Byte) ≠ 0xDB ∧ { s with bdEsc := .escaped }.bdEsc = .escaped ∧
    s.opCap.toNat ≤ s.bdSize.toNat := ⟨idle_running, rfl, rfl, rfl, rfl, by decide, by decide, rfl, by decide⟩

theorem witness_ScanBadEscapeEndsTheCommand :
    let s := { synced with bdCache := [0xC0], bdEsc := .escaped }
    s.running ∧ s.busy = true ∧ s.bdSynced = true ∧ s.bdCache = 0xC0 :: [] ∧ s.bdEsc = .escaped ∧
    (0xC0 : Byte) ≠ 0xDC ∧ (0xC0 : Byte) ≠ 0xDD := ⟨idle_running, rfl, rfl, rfl, rfl, by decide, by decide⟩

theorem witness_ScanEndReturnsTheFrame :
    let s := { synced with bdCache := [0xC0], bdSize := 2 }
    s.running ∧ s.busy = true ∧ s.bdSynced = true ∧ s.bdCache = 0xC0 :: [] ∧ s.bdEsc = .normal ∧
    s.bdSize.toNat ≤ s.opCap.toNat ∧ { s with opCap := 1 }.opCap.toNat < s.bdSize.toNat :=
  ⟨idle_running, rfl, rfl, rfl, rfl, by decide, by decide⟩

theorem witness_DecBlockAnswersOnceWithItsCacheLength :
    let s := { busy with bdCache := [], readAnswers := [some ⟨[1], some ChanErr.first⟩], port := [] }
    Inv s ∧ s.running ∧ s.busy = true ∧ ∃ t, step s = .next t :=
  ⟨busy_inv [] (by decide) _ _, idle_running, rfl, _, rfl⟩

theorem witness_ReturnedFrameFitsTheCapacity :
    let s := { synced with bdBuf := [(0, 0x0A), (1, 0x01)], bdSize := 2, bdCache := [0xC0] }
    let r : Response := ⟨0x10008000, [0x0A, 0x01], none⟩
    ∃ t, step s = .next t ∧ TraceItem.response r ∈ t.trace ∧ r.status = 0x1 ∧ TraceItem.response r ∉ s.trace :=
  ⟨_, rfl, by decide, by decide, by decide⟩

/-- An answer of bytes, as the channel gives it. -/
theorem brings {h : Count} {c : List Byte} (h1 : c ≠ []) (h2 : c.length ≤ h.toNat) : BringsBytes h (some ⟨c, none⟩) :=
  ⟨_, rfl, rfl, h1, h2⟩

/-- Answers of bytes, for ever. -/
def forEver : State := { busy with readAnswers := [some ⟨[1, 2], none⟩], laterReads := .again (some ⟨[3], none⟩) [] }

theorem forEver_supplied : forEver.suppliedForEver := by
  refine ⟨?_, _, _, rfl, ?_⟩ <;> intro o ho <;> simp only [forEver, List.mem_singleton] at ho <;> subst ho <;>
    exact brings (by decide) (by decide)

theorem witness_SynchronisedDecBlockEnds :
    let s := { synced with bdCache := [1, 2, 3, 4, 5, 6] }
    let u := { synced with readAnswers := [some ⟨[1, 2, 3], none⟩, some ⟨[4, 5, 6], none⟩] }
    let v := { forEver with bdSynced := true }
    (s.running ∧ s.busy = true ∧ s.bdSynced = true ∧ 2 * s.opCap.toNat + 2 ≤ s.bdCache.length) ∧
    (u.running ∧ u.busy = true ∧ u.bdSynced = true ∧ u.readPending = false ∧ u.supplied ∧
      2 * u.opCap.toNat + 2 ≤ u.stream.length) ∧
    v.running ∧ v.busy = true ∧ v.bdSynced = true ∧ v.readPending = false ∧ v.suppliedForEver := by
  refine ⟨⟨idle_running, rfl, rfl, by decide⟩, ⟨idle_running, rfl, rfl, rfl, ?_, by decide⟩, idle_running, rfl, rfl, rfl,
    forEver_supplied⟩
  intro o ho
  simp only [List.mem_cons, List.not_mem_nil, or_false] at ho
  rcases ho with rfl | rfl <;> exact brings (by decide) (by decide)

theorem witness_DecBlockCanHang :
    (∀ answers ∈ [[], [none, some (⟨[1], none⟩ : ReadAnswer)]],
      let s := { busy with readAnswers := answers }
      s.running ∧ s.busy = true ∧ s.bdCache = [] ∧ s.readPending = false ∧ (s.nextRead s.opHint).1 = none) ∧
    (let s := { busy with readAnswers := [some ⟨[1, 2, 3], none⟩] }
     s.running ∧ s.busy = true ∧ s.bdSynced = false ∧ (0xC0 : Byte) ∉ s.stream ∧ s.supplied ∧ s.laterReads = .silent) ∧
    (forEver.running ∧ forEver.busy = true ∧ forEver.bdSynced = false ∧ forEver.readPending = false ∧
      (0xC0 : Byte) ∉ forEver.stream ∧ forEver.suppliedForEver ∧ forEver.laterReads = .again (some ⟨[3], none⟩) [] ∧
      (0xC0 : Byte) ∉ [some ⟨[3], none⟩].flatMap bytesOfAnswer) := by
  refine ⟨?_, ⟨idle_running, rfl, rfl, by decide, ?_, rfl⟩, idle_running, rfl, rfl, rfl, by decide, forEver_supplied, rfl,
    by decide⟩
  · simp only [State.running]
    decide
  · intro o ho
    simp only [List.mem_singleton] at ho
    subst ho
    exact brings (by decide) (by decide)

/-- Answers within the hint 8 of a build with BUF_SIZE = 8. -/
theorem within_eight {answers : List ReadAnswer} (h : ∀ a ∈ answers, a.chunk.length ≤ 8) (ds : List (Count × Count))
    (hd : ∀ d ∈ ds, d.2 = 8) (s : State) (hs : s.readAnswers = answers.map some) (hc : s.cfg.bufSize = 8) :
    s.answeredWithin ds := by
  intro o ho
  rw [hs] at ho
  obtain ⟨a, ha, rfl⟩ := List.mem_map.1 ho
  refine ⟨a, rfl, fun d hdm => ?_⟩
  rw [hd d hdm, hc]
  exact h a ha

/-- Frame([1, 0xC0, 2]) in three chunks, one of them empty. -/
def pieces : List ReadAnswer := [⟨[0xFF, 0xC0, 1, 0xDB], none⟩, ⟨[], none⟩, ⟨[0xDC, 2, 0xC0], none⟩]

theorem witness_DecodeOfEncodeReturnsThePayload :
    let s := { idle with port := [.word 0x50010008, .word 0x50010008], readAnswers := pieces.map some }
    let ds : List (Count × Count) := [(4, 8), (4, 8)]
    s.running ∧ s.busy = false ∧ s.readPending = false ∧ s.bdSynced = false ∧ s.bdSize = 0 ∧ s.bdEsc = .normal ∧
    s.port = decBlocks ds ∧ (∀ d ∈ ds, [1, 0xC0, 2].length ≤ min d.1.toNat s.cfg.bufSize) ∧ s.answeredWithin ds ∧
    (∀ o ∈ s.readAnswers, ∀ a, o = some a → a.err = none) ∧ s.readAnswers.countP interrupts < ds.length ∧
    s.stream = frame [1, 0xC0, 2] := by
  refine ⟨idle_running, rfl, rfl, rfl, rfl, rfl, rfl, by simp [idle],
    within_eight (answers := pieces) (by decide) _ (by simp) _ rfl rfl, ?_, by decide, by decide⟩
  have h : ∀ a ∈ pieces, a.err = none := by decide
  intro o ho a ha
  subst ha
  exact h a (by simpa using ho)

/-- Frame([1]), Frame([2]) in three chunks: one with an error, one empty, one with neither. -/
def twoFrames : List ReadAnswer :=
  [⟨[0xFF, 0xC0, 1], some ChanErr.first⟩, ⟨[], none⟩, ⟨[0xC0, 0xFF, 0xC0, 2, 0xC0], none⟩]

theorem witness_SecondFrameIsPrecededByItsFlush :
    let start := fun s : State => s.running ∧ s.busy = false ∧ s.readPending = false ∧ s.bdSynced = false ∧ s.bdSize = 0 ∧
      s.bdEsc = .normal
    let w := PortItem.word 0x50004008
    (let s := { idle with port := [w, w, w], readAnswers := [some ⟨[0xFF, 0xC0, 1, 0xC0, 0xFF, 0xC0, 2, 0xC0], none⟩] }
     start s ∧ s.bdCache = [] ∧ s.port = decBlocks [(1, 8), (1, 8), (1, 8)] ∧
      s.readAnswers = [some ⟨frame [1] ++ frame [2], none⟩] ∧
      (frame [1] ++ frame [2]).length ≤ min (8 : Count).toNat s.cfg.bufSize ∧ 1 ≤ (1 : Count).toNat ∧
      [1].length ≤ (1 : Count).toNat ∧ [2].length ≤ (1 : Count).toNat) ∧
    (let s := { idle with port := [w, w, w, w, w], readAnswers := twoFrames.map some }
     let ds := List.replicate 5 ((1 : Count), (8 : Count))
     start s ∧ s.port = decBlocks ds ∧
      (∀ d ∈ ds, 1 ≤ d.1.toNat ∧ [1].length ≤ min d.1.toNat s.cfg.bufSize ∧ [2].length ≤ min d.1.toNat s.cfg.bufSize) ∧
      s.answeredWithin ds ∧ s.readAnswers.countP interrupts + 3 ≤ ds.length ∧ s.stream = frame [1] ++ frame [2]) :=
  ⟨⟨⟨idle_running, rfl, rfl, rfl, rfl, rfl⟩, rfl, by decide, by decide, by decide, by decide, by decide, by decide⟩,
    ⟨idle_running, rfl, rfl, rfl, rfl, rfl⟩, by decide, by simp [idle],
    within_eight (answers := twoFrames) (by decide) _ (by simp) _ rfl rfl, by decide, by decide⟩

theorem witness_ChunkingDoesNotMatter :
    let s₁ := { synced with bdCache := [1, 0xC0] }
    let s₂ := { synced with readAnswers := [some ⟨[1], none⟩, some ⟨[0xC0], none⟩] }
    s₁.running ∧ s₂.running ∧ s₁.supplied ∧ s₂.supplied ∧ s₁.laterReads = .silent ∧ s₂.readPending = false ∧
    s₁.stream = s₂.stream ∧ s₁.busy = true ∧ s₂.busy = true ∧ s₁.cfg = s₂.cfg ∧ s₁.opCap = s₂.opCap ∧
    s₁.bdSynced = s₂.bdSynced ∧ s₁.bdEsc = s₂.bdEsc ∧ s₁.bdSize = s₂.bdSize ∧ s₁.bdFrame = s₂.bdFrame ∧
    ∃ t, runSteps 2 s₁ = .next t ∧ t.busy = false ∧ ∀ k < 2, ∀ u, runSteps k s₁ = .next u → u.busy = true := by
  refine ⟨idle_running, idle_running, fun o ho => absurd ho List.not_mem_nil, ?_, rfl, rfl, by decide, rfl, rfl, rfl, rfl,
    rfl, rfl, rfl, rfl, _, rfl, rfl, ?_⟩
  · intro o ho
    simp only [List.mem_cons, List.not_mem_nil, or_false] at ho
    rcases ho with rfl | rfl <;> exact brings (by decide) (by decide)
  · intro k hk u hu
    match k, hk with
    | 0, _ => cases hu; rfl
    | 1, _ => cases hu; rfl

theorem witness_FragmentationDoesNotMatter :
    let w := PortItem.word 0x50004008
    let s₁ := { idle with port := [w], readAnswers := [⟨[0xFF, 0xC0, 1, 0xC0, 0xFF, 0xC0, 2, 0xC0], none⟩].map some }
    let s₂ := { idle with port := [w, w, w], readAnswers := twoFrames.map some }
    let ds₁ : List (Count × Count) := [(1, 8)]
    let ds₂ := List.replicate 3 ((1 : Count), (8 : Count))
    (s₁.running ∧ s₂.running ∧ s₁.busy = false ∧ s₂.busy = false ∧ s₁.readPending = false ∧ s₂.readPending = false ∧
      s₁.cfg = s₂.cfg ∧ s₁.bdSynced = s₂.bdSynced ∧ s₁.bdEsc = s₂.bdEsc ∧ s₁.bdSize = s₂.bdSize ∧
      s₁.bdFrame = s₂.bdFrame) ∧
    s₁.port = decBlocks ds₁ ∧ s₂.port = decBlocks ds₂ ∧ (∀ d ∈ ds₁ ++ ds₂, d.1 = 1) ∧
    s₁.answeredWithin ds₁ ∧ s₂.answeredWithin ds₂ ∧ s₁.laterReads = .silent ∧ s₁.stream = s₂.stream ∧
    ds₁.length + s₂.readAnswers.countP interrupts ≤ ds₂.length ∧ ∃ t, runSteps 6 s₁ = .next t :=
  ⟨⟨idle_running, idle_running, rfl, rfl, rfl, rfl, rfl, rfl, rfl, rfl, rfl⟩, by decide, by decide, by simp,
    within_eight (by decide) _ (by simp) _ rfl rfl,
    within_eight (answers := twoFrames) (by decide) _ (by simp) _ rfl rfl, rfl, by decide, by decide, _, rfl⟩

theorem witness_StepRunsTheDecodedCommand :
    let s := { idle with port := [.word 0x40000001, .byte 0xC0, .word 0x30000000] }
    s.hasReset = true ∧ s.busy = false ∧ decode s.port = .command (.encBlock 1 [0xC0]) [.word 0x30000000] ∧
    s.resetIn = [] ∧ { s with resetIn := [1, 4] }.resetIn = (0 + 1) :: [4] := ⟨rfl, rfl, by decide, rfl, rfl⟩

theorem witness_StepBeforeALaterReset :
    ∃ t, step { synced with bdCache := [1], resetIn := [2, 4] } = .next t ∧
      { synced with resetIn := [2, 4] }.resetIn = (1 + 1) :: [4] := ⟨_, rfl, rfl⟩

theorem witness_FinishedRunStaysAsItIs : idle.running ∧ idle.finished := ⟨idle_running, rfl, rfl⟩

theorem witness_BrokenDutiesAreRefused :
    (let s := { idle with port := [.byte 7] }
     s.running ∧ s.busy = false ∧ s.port = .byte 7 :: []) ∧
    (let s := { idle with port := [.word 0x40000002, .byte 7, .word 0x30000000] }
     s.running ∧ s.busy = false ∧ decodeWord 0x40000002 = .encBlock 2 ∧ [(7 : Byte)].length < (2 : BitVec 16).toNat ∧
       s.port = .word 0x40000002 :: [7].map .byte ++ [.word 0x30000000]) ∧
    (let s := { busy with opHint := 1, readAnswers := [some ⟨[1, 2], none⟩] }
     s.running ∧ s.busy = true ∧ s.bdCache = [] ∧ s.readPending = false ∧
       (s.nextRead s.opHint).1 = some ⟨[1, 2], none⟩ ∧
       s.opHint.toNat < [(1 : Byte), 2].length) ∧
    (let s := { idle with writeAnswers := [⟨4, none⟩] }
     (frame []).length ≤ s.cfg.bufSize ∧ s.writeAnswers = ⟨4, none⟩ :: [] ∧ (frame []).length < 4) := by
  simp only [State.running]
  decide

theorem witness_ResetGivesEveryElementItsResetValue :
    let s := { synced with teSize := 5, idState := .escaped, bdCache := [1], resetIn := [0, 3] }
    s.resetIn = 0 :: [3] := rfl

theorem witness_ResetAbandonsADecBlock :
    let s := { synced with bdCache := [1], resetIn := [0] }
    s.busy = true ∧ s.resetIn = 0 :: [] := ⟨rfl, rfl⟩

theorem witness_NothingRunsBeforeTheFirstReset :
    let s := { idle with hasReset := false, port := [.word 0x30000000] }
    s.hasReset = false ∧ s.resetIn.head? ≠ some 0 := by decide

theorem witness_InvariantHoldsAtReset : Started idle := ⟨idle.cfg, [], [], [], .silent, [], rfl⟩

theorem witness_EveryStepKeepsTheInvariant :
    let s := { busy with bdCache := [0xC0], readAnswers := [], port := [] }
    Inv s ∧ ∃ t, step s = .next t := ⟨busy_inv [0xC0] (by decide) _ _, _, rfl⟩

theorem witness_HeldFramesAreWritten :
    let s := { idle with port := [.word 0x2000000A] }
    ∃ t, Started s ∧ Reaches s t ∧ t.teSize = 3 := ⟨_, ⟨idle.cfg, [], _, [], .silent, [], rfl⟩, ⟨1, rfl⟩, rfl⟩

theorem witness_OnlyResetClearsSync :
    ∃ t, step { synced with resetIn := [0] } = .next t ∧ synced.bdSynced = true ∧ t.bdSynced = false :=
  ⟨_, rfl, rfl, rfl⟩

theorem witness_CommandsWriteTheirOwnUnitOnly :
    (∃ t, exec (.decFeed 0xDB) idle = .next t) ∧ (∃ t, exec (.encPut 0xC0) idle = .next t) ∧
    (∃ t, exec .encEnd idle = .next t) ∧ (∃ t, exec (.encBlock 6 [1, 2, 3, 4, 5, 6]) idle = .next t) ∧
    (∃ t, exec (.decBlock 2 8) idle = .next t) := ⟨⟨_, rfl⟩, ⟨_, rfl⟩, ⟨_, rfl⟩, ⟨_, rfl⟩, ⟨_, rfl⟩⟩

theorem witness_DecBlockWritesRxbOnly :
    let s := { synced with bdCache := [1] }
    s.running ∧ s.busy = true ∧ ∃ t, step s = .next t := ⟨idle_running, rfl, _, rfl⟩

theorem witness_UnitsCannotSeeEachOther :
    let s₁ := { idle with idState := .escaped }
    let s₂ := { synced with idState := .escaped, writeAnswers := [⟨1, none⟩] }
    s₁ ≠ s₂ ∧ s₁.cfg = s₂.cfg ∧ s₁.idState = s₂.idState ∧ s₁.idSize = s₂.idSize ∧ s₁.idFrame = s₂.idFrame ∧
    s₁.teSize = s₂.teSize ∧ s₁.teFrame = s₂.teFrame ∧ s₁.idSize.toNat ≤ s₁.cfg.bufSize := by decide

theorem witness_ErrorValuesPassThroughUnread :
    (let s := { busy with readAnswers := [some ⟨[], some ChanErr.first⟩] }
     (s.busy = true ∧ s.bdCache = [] ∧ s.readPending = false ∧ s.readAnswers ≠ []) ∧ ∃ t, step s = .next t) ∧
    (let s := { idle with port := [.word 0x40000000], writeAnswers := [⟨3, some ChanErr.first⟩] }
     decode s.port = .command (.encBlock 0 []) [] ∧ (frame []).length ≤ s.cfg.bufSize ∧ s.writeAnswers ≠ [] ∧
       ∃ t, step s = .next t) :=
  ⟨⟨by decide, _, rfl⟩, by decide, by decide, by decide, _, rfl⟩

theorem witness_StatusesOfEachCommand :
    ∃ t, exec (.decFeed 0x41) { idle with idState := .escaped } = .next t ∧
      TraceItem.response ⟨0x40000000, [], none⟩ ∈ t.trace ∧ TraceItem.response ⟨0x40000000, [], none⟩ ∉ idle.trace :=
  ⟨_, rfl, by decide, by decide⟩

theorem witness_EachCommandEndsWithOneResponse :
    (∀ cap hint, Instr.encEnd ≠ .decBlock cap hint) ∧ ∃ t, exec .encEnd idle = .next t :=
  ⟨fun _ _ h => (by cases h), _, rfl⟩

theorem witness_BusyEndsByResponseOrReset :
    ∃ t u, step { synced with bdCache := [0xC0] } = .next t ∧ t.busy = false ∧
      step { synced with resetIn := [0] } = .next u ∧ u.busy = false := ⟨_, _, rfl, rfl, rfl, rfl⟩

theorem witness_TraceOnlyGrows : ∃ t, step { idle with port := [.word 0x30000000] } = .next t := ⟨_, rfl⟩

end Sys2Proof.Tests
end

section
/-! PROOFS. The statements on the scope of commands and steps (00_scope.md): which unit a command writes and shows, its
one response, the trace, and the channel's error values. -/

namespace Sys2Proof.Machine

/-! ### The commands' equations, one for each case -/

/-- A boundary delivers a frame of at least MIN_FRAME bytes (R194). -/
theorem feedBoundary_deliver {s : State} (h : Config.minFrame ≤ s.idSize.toNat) :
    feedBoundary s = State.respondOk { s.log (.rxFrame s.idFrame) with idSize := 0, idState := .normal } := by
  simp only [feedBoundary, if_pos h]

/-- A boundary drops a shorter one without an event (R194). -/
theorem feedBoundary_drop {s : State} (h : ¬Config.minFrame ≤ s.idSize.toNat) :
    feedBoundary s = State.respondOk { s with idSize := 0, idState := .normal } := by
  simp only [feedBoundary, if_neg h]

theorem feedStore_full {s : State} (v : Byte) (h : s.idSize.toNat = s.cfg.bufSize) :
    feedStore v s = State.raise .bufferOverflow { s with idState := .normal, idSize := 0 } := if_pos h

theorem feedStore_fits {s : State} (v : Byte) (h : s.idSize.toNat ≠ s.cfg.bufSize) :
    feedStore v s = State.respondOk (State.idAppend v { s with idState := .normal }) := if_neg h

/-- What DEC_FEED does for an action of the escape table (R191). -/
def feedAction : Action → State → State
  | .boundary => feedBoundary
  | .enterEsc => feedEnterEsc
  | .store v => feedStore v
  | .badEscape => feedBadEscape

theorem execDecFeed_eq (c : Byte) (s : State) :
    execDecFeed c s = .next (feedAction (escStep s.idState c).1 s) := by
  simp only [execDecFeed]
  cases (escStep s.idState c).1 <;> rfl

/-- What an ENC_PUT whose bytes are `v` does (R211, R213). -/
def putAction (v : List Byte) (s : State) : State :=
  if s.teOverflows v then teDiscard s else (s.teAppend v).respondOk

/-- What an ENC_END whose bytes are `v` does (R215, R216). -/
def endAction (v : List Byte) (s : State) : State :=
  if s.teOverflows v then teDiscard s else teEmit (s.teAppend v)

theorem execEncPut_eq (b : Byte) (s : State) : execEncPut b s = .next (putAction (s.putBytes b) s) := by
  simp only [execEncPut, putAction]
  split <;> rfl

theorem execEncEnd_eq (s : State) : execEncEnd s = .next (endAction s.endBytes s) := by
  simp only [execEncEnd, endAction]
  split <;> rfl

/-! ### What a command writes (R3, R30) -/

/-- DEC_FEED writes RXI, `busy` and the trace. -/
theorem feedAction_frame (a : Action) (s : State) :
    feedAction a s =
      { s with
        busy := false, idState := (feedAction a s).idState, idBuf := (feedAction a s).idBuf
        idSize := (feedAction a s).idSize, trace := (feedAction a s).trace } := by
  cases a with
  | boundary =>
    simp only [feedAction]
    by_cases h : Config.minFrame ≤ s.idSize.toNat
    · rw [feedBoundary_deliver h]; rfl
    · rw [feedBoundary_drop h]; rfl
  | enterEsc => rfl
  | store v =>
    simp only [feedAction]
    by_cases h : s.idSize.toNat = s.cfg.bufSize
    · rw [feedStore_full v h]; rfl
    · rw [feedStore_fits v h]; rfl
  | badEscape => rfl

/-- ENC_PUT writes TXI, `busy` and the trace. -/
theorem putAction_frame (v : List Byte) (s : State) :
    putAction v s =
      { s with
        busy := false, teBuf := (putAction v s).teBuf, teSize := (putAction v s).teSize
        trace := (putAction v s).trace } := by
  simp only [putAction]
  cases s.teOverflows v <;> rfl

/-- ENC_END writes TXI, `busy` and the trace. -/
theorem endAction_frame (v : List Byte) (s : State) :
    endAction v s =
      { s with
        busy := false, teBuf := (endAction v s).teBuf, teSize := (endAction v s).teSize
        trace := (endAction v s).trace } := by
  simp only [endAction]
  cases s.teOverflows v <;> rfl

/-- ENC_BLOCK writes no unit's state: it takes a write's answer, and writes `busy` and the trace. -/
theorem execEncBlock_frame {p : List Byte} {s t : State} (h : execEncBlock p s = .next t) :
    t = { s with busy := false, writeAnswers := t.writeAnswers, freeDraws := t.freeDraws, trace := t.trace } := by
  rcases execEncBlock_cases p s with ⟨-, he⟩ | ⟨-, ⟨-, n, err, -, he⟩ | ⟨a, later, -, ⟨-, he⟩ | ⟨-, he⟩⟩⟩ <;>
    cases he.symm.trans h <;> rfl

/-- Settles O53: each command by its own frame. -/
theorem commandsWriteTheirOwnUnitOnly : Obligations.CommandsWriteTheirOwnUnitOnly := by
  intro i s t h
  cases i with
  | decFeed c =>
    cases (execDecFeed_eq c s).symm.trans h
    rw [feedAction_frame]
    simp
  | encPut b =>
    cases (execEncPut_eq b s).symm.trans h
    rw [putAction_frame]
    simp
  | encEnd =>
    cases (execEncEnd_eq s).symm.trans h
    rw [endAction_frame]
    simp
  | encBlock len p =>
    rw [execEncBlock_frame h]
    simp
  | decBlock cap hint =>
    cases h
    simp

/-! ### What a command or a micro-step adds to the trace (R16, R17) -/

/-- From `s` to `t` the trace grows by these items and a response behind them. -/
def AddsResponse (before : List TraceItem) (s t : State) : Prop := ∃ r, t.trace = s.trace ++ before ++ [.response r]

theorem addsResponse_nil {s t : State} {r : Response} (h : t.trace = s.trace ++ [.response r]) :
    AddsResponse [] s t := ⟨r, by rw [h, List.append_nil]⟩

/-- DEC_FEED adds its response, behind the event of a frame it delivers. -/
theorem feedAction_trace (a : Action) (s : State) :
    AddsResponse [] s (feedAction a s) ∨ AddsResponse [.rxFrame s.idFrame] s (feedAction a s) := by
  cases a with
  | boundary =>
    simp only [feedAction]
    by_cases h : Config.minFrame ≤ s.idSize.toNat
    · rw [feedBoundary_deliver h]; exact .inr ⟨_, rfl⟩
    · rw [feedBoundary_drop h]; exact .inl (addsResponse_nil rfl)
  | enterEsc => exact .inl (addsResponse_nil rfl)
  | store v =>
    simp only [feedAction]
    by_cases h : s.idSize.toNat = s.cfg.bufSize
    · rw [feedStore_full v h]; exact .inl (addsResponse_nil rfl)
    · rw [feedStore_fits v h]; exact .inl (addsResponse_nil rfl)
  | badEscape => exact .inl (addsResponse_nil rfl)

/-- ENC_PUT adds its response. -/
theorem putAction_trace (v : List Byte) (s : State) : AddsResponse [] s (putAction v s) := by
  simp only [putAction]
  cases s.teOverflows v <;> exact addsResponse_nil rfl

/-- ENC_END adds its response, behind the event of the frame it emits. -/
theorem endAction_trace (v : List Byte) (s : State) :
    AddsResponse [] s (endAction v s) ∨ AddsResponse [.txFrame (s.teAppend v).teFrame] s (endAction v s) := by
  simp only [endAction]
  cases s.teOverflows v with
  | true => exact .inl (addsResponse_nil rfl)
  | false => exact .inr ⟨_, rfl⟩

theorem encBlockEnd_trace (p : List Byte) (n : Nat) (err : Option ChanErr) (s : State) :
    AddsResponse [.chanWrite (frame p), .writeAnswer n err] s (encBlockEnd p n err s) :=
  ⟨_, by rw [encBlockEnd, State.respond_trace, State.written_trace]⟩

/-- ENC_BLOCK adds its response, behind its write and the answer where it makes one. -/
theorem execEncBlock_trace {p : List Byte} {s t : State} (h : execEncBlock p s = .next t) :
    AddsResponse [] s t ∨ ∃ n err, AddsResponse [.chanWrite (frame p), .writeAnswer n err] s t := by
  rcases execEncBlock_cases p s with ⟨-, he⟩ | ⟨-, ⟨-, n, err, -, he⟩ | ⟨a, later, -, ⟨-, he⟩ | ⟨-, he⟩⟩⟩ <;>
    cases he.symm.trans h
  · exact .inl (addsResponse_nil rfl)
  · exact .inr ⟨n, err, encBlockEnd_trace p n err { s with freeDraws := s.freeDraws + 1 }⟩
  · exact .inr ⟨a.n, a.err, encBlockEnd_trace p a.n a.err { s with writeAnswers := later }⟩

/-- Settles O58: busy is cleared by each command's frame, and each adds its response, behind one of the runs listed. -/
theorem eachCommandEndsWithOneResponse : Obligations.EachCommandEndsWithOneResponse := by
  intro i s t hi h
  cases i with
  | decFeed c =>
    cases (execDecFeed_eq c s).symm.trans h
    refine ⟨by rw [feedAction_frame], ?_⟩
    rcases feedAction_trace (escStep s.idState c).1 s with ⟨r, hr⟩ | ⟨r, hr⟩
    · exact ⟨_, r, hr, .inl rfl⟩
    · exact ⟨_, r, hr, .inr (.inl ⟨_, rfl⟩)⟩
  | encPut b =>
    cases (execEncPut_eq b s).symm.trans h
    obtain ⟨r, hr⟩ := putAction_trace (s.putBytes b) s
    exact ⟨by rw [putAction_frame], _, r, hr, .inl rfl⟩
  | encEnd =>
    cases (execEncEnd_eq s).symm.trans h
    refine ⟨by rw [endAction_frame], ?_⟩
    rcases endAction_trace s.endBytes s with ⟨r, hr⟩ | ⟨r, hr⟩
    · exact ⟨_, r, hr, .inl rfl⟩
    · exact ⟨_, r, hr, .inr (.inr (.inl ⟨_, rfl⟩))⟩
  | encBlock len p =>
    refine ⟨by rw [execEncBlock_frame h], ?_⟩
    rcases execEncBlock_trace h with ⟨r, hr⟩ | ⟨n, err, r, hr⟩
    · exact ⟨_, r, hr, .inl rfl⟩
    · exact ⟨_, r, hr, .inr (.inr (.inr ⟨_, n, err, rfl⟩))⟩
  | decBlock cap hint => exact absurd rfl (hi cap hint)

/-- A scanned byte ends the DEC_BLOCK with a response, or leaves it in progress and the trace as it was. -/
theorem scanByte_trace (c : Byte) (s : State) :
    ((scanByte c s).busy = s.busy ∧ (scanByte c s).trace = s.trace) ∨ AddsResponse [] s (scanByte c s) := by
  rcases scanByte_cases c s with
    ⟨-, h⟩ | ⟨-, ⟨-, h⟩ | ⟨v, -, -, h⟩ | ⟨v, -, -, h⟩ | ⟨-, h⟩ | ⟨-, -, h⟩ | ⟨-, -, h⟩⟩ <;> rw [h]
  case inl => exact .inl ⟨rfl, rfl⟩
  case inr.inl => exact .inl ⟨rfl, rfl⟩
  case inr.inr.inl => exact .inl ⟨rfl, rfl⟩
  all_goals exact .inr (addsResponse_nil rfl)

/-- A micro-step ends the DEC_BLOCK with a response, or leaves it in progress; either way the trace only grows. -/
theorem decMicroStep_trace {s t : State} (h : decMicroStep s = .next t) :
    (t.busy = s.busy ∧ ∃ new, t.trace = s.trace ++ new) ∨ ∃ before, AddsResponse before s t := by
  rcases decMicroStep_cases s with ⟨c, rest, -, he⟩ | ⟨-, ⟨-, he⟩ | ⟨-, ⟨-, he⟩ | ⟨a, -, ⟨-, he⟩ |
      ⟨-, ⟨e, -, he⟩ | ⟨-, -, he⟩ | ⟨-, -, he⟩⟩⟩⟩⟩ <;> cases he.symm.trans h
  · rcases scanByte_trace c { s with bdCache := rest } with ⟨hb, ht⟩ | hr
    · exact .inl ⟨hb, [], by simpa using ht⟩
    · exact .inr ⟨[], hr⟩
  · exact .inl ⟨rfl, [], by simp⟩
  · exact .inl ⟨by simp, [.chanRead s.opHint], by simp⟩
  · exact .inr ⟨[.chanRead s.opHint, .readAnswer a.chunk a.err], _, congrArg (· ++ [_]) (State.afterRead_trace a s)⟩
  · exact .inr ⟨[.chanRead s.opHint, .readAnswer a.chunk a.err], _, congrArg (· ++ [_]) (State.afterRead_trace a s)⟩
  · exact .inl ⟨by simp, [.chanRead s.opHint, .readAnswer a.chunk a.err], by simp⟩

/-- A command adds to the trace, whichever it is. -/
theorem exec_trace {i : Instr} {s t : State} (h : exec i s = .next t) : ∃ new, t.trace = s.trace ++ new := by
  by_cases hi : ∃ cap hint, i = .decBlock cap hint
  · obtain ⟨cap, hint, rfl⟩ := hi
    cases h
    exact ⟨[], (List.append_nil _).symm⟩
  · obtain ⟨-, before, r, hr, -⟩ :=
      eachCommandEndsWithOneResponse i s t (fun cap hint he => hi ⟨cap, hint, he⟩) h
    exact ⟨before ++ [.response r], by rw [hr, List.append_assoc]⟩

/-- Settles O59: a step that is no reset and finds SLIPCORE busy is a micro-step. -/
theorem busyEndsByResponseOrReset : Obligations.BusyEndsByResponseOrReset := by
  intro s t h hbusy hidle
  rcases step_cases h with ⟨later, hr, -⟩ | ⟨-, -, resets, ⟨-, hm⟩ | ⟨hb, -⟩⟩
  · exact .inl (by rw [hr]; rfl)
  · rcases decMicroStep_trace hm with ⟨hb, -⟩ | hend
    · exact absurd (hb.symm.trans hidle) (by simp [hbusy])
    · exact .inr hend
  · exact absurd hbusy (by simp [hb])

/-- Settles O60, by cases on what the step does. -/
theorem traceOnlyGrows : Obligations.TraceOnlyGrows := by
  intro s t h
  rcases step_cases h with
    ⟨later, -, rfl⟩ | ⟨-, -, resets, ⟨-, hm⟩ | ⟨-, ⟨-, rfl⟩ | ⟨i, rest, -, he⟩ | ⟨w, rest, -, rfl⟩⟩⟩
  · exact ⟨[], (List.append_nil _).symm⟩
  · rcases decMicroStep_trace hm with ⟨-, hnew⟩ | ⟨before, r, hr⟩
    · exact hnew
    · exact ⟨before ++ [.response r], by rw [hr, List.append_assoc]⟩
  · exact ⟨[], (List.append_nil _).symm⟩
  · exact exec_trace (s := { s with resetIn := resets, port := rest }) he
  · exact ⟨_, rfl⟩

/-! ### ENC_BLOCK's end, and the step of an idle machine -/

/-- An answered ENC_BLOCK's end, written out with the words of R92 (R134). -/
theorem encBlockEnd_eq (p : List Byte) (n : Nat) (err : Option ChanErr) (s : State) :
    encBlockEnd p n err s =
      { s with
        busy := false
        trace := s.trace ++
          [.chanWrite (frame p), .writeAnswer n err,
           answered ((if err = none then 0x0#4 else 0x5#4) ++ (BitVec.ofNat 14 n ++ 0#14)) [] err] } := by
  cases err <;> simp [encBlockEnd, State.respond, writeStatus, responseWord, Status.code]

/-- Settles O15: the answer is the free one that ENC_BLOCK draws. -/
theorem encBlockNeverWaits : Obligations.EncBlockNeverWaits := by
  intro s len p hfit hnone
  rcases execEncBlock_cases p s with ⟨hover, -⟩ | ⟨-, ⟨-, n, err, hn, he⟩ | ⟨a, later, hw, -⟩⟩
  · exact absurd hover (Nat.not_lt.2 hfit)
  · exact ⟨n, err, hn, he.trans (by rw [encBlockEnd_eq])⟩
  · exact absurd hw (by simp [hnone])

/-- An idle machine performs the command the port decodes to (R16). -/
theorem advance_command {s : State} {i : Instr} {rest : List PortItem} (hreset : s.hasReset = true)
    (hidle : s.busy = false) (hd : decode s.port = .command i rest) : advance s = exec i { s with port := rest } := by
  simp [advance, acceptCommand, hreset, hidle, hd]

/-- A step with a reset still to come brings it one step nearer (R260, log 10). -/
theorem step_before_reset {s : State} {n : Nat} {later : List Nat} (h : s.resetIn = (n + 1) :: later) :
    step s = advance { s with resetIn := n :: later } := by
  simp only [step, cycle, h]

/-- Settles O42. -/
theorem stepRunsTheDecodedCommand : Obligations.StepRunsTheDecodedCommand := by
  intro s i rest hreset hidle hd
  refine ⟨fun hnone => ?_, fun n later hlater => ?_⟩
  · have hstep : step s = advance s := by simp only [step, cycle, hnone]
    exact hstep.trans (advance_command hreset hidle hd)
  · exact (step_before_reset hlater).trans (advance_command hreset hidle hd)

/-- Settles O44: nothing on the port decodes to nothing. -/
theorem finishedRunStaysAsItIs : Obligations.FinishedRunStaysAsItIs := by
  intro s hrun ⟨hidle, hport⟩
  simp [step_running hrun, hidle, acceptCommand, hport, decode]

/-! ### RXI's and TXI's commands see their own unit only (R3, R42) -/

/-- Two machines of one build that agree in RXI's escape state, size and frame. -/
structure SameRxi (s₁ s₂ : State) : Prop where
  cfg      : s₁.cfg = s₂.cfg
  escState : s₁.idState = s₂.idState
  size     : s₁.idSize = s₂.idSize
  frame    : s₁.idFrame = s₂.idFrame

/-- Two machines of one build that agree in TXI's size and frame. -/
structure SameTxi (s₁ s₂ : State) : Prop where
  cfg   : s₁.cfg = s₂.cfg
  size  : s₁.teSize = s₂.teSize
  frame : s₁.teFrame = s₂.teFrame

/-- Going from `s₁` to `t₁` and from `s₂` to `t₂` adds the same to the trace. -/
def AddsTheSame (s₁ s₂ t₁ t₂ : State) : Prop := ∃ new, t₁.trace = s₁.trace ++ new ∧ t₂.trace = s₂.trace ++ new

/-- The word of `respond(OK, 0, 0)`, as simp writes it. -/
@[simp] theorem responseWord_ok : responseWord .ok 0#14 0#14 = 0#32 := rfl

/-- DEC_FEED's actions show the same, and leave RXI the same, on machines that agree in RXI. A store needs the size
within BUF_SIZE for the frame it leaves: above it the count could wrap. -/
theorem feedAction_sameRxi {s₁ s₂ : State} (h : SameRxi s₁ s₂) (a : Action) :
    AddsTheSame s₁ s₂ (feedAction a s₁) (feedAction a s₂) ∧
    (feedAction a s₁).idState = (feedAction a s₂).idState ∧ (feedAction a s₁).idSize = (feedAction a s₂).idSize ∧
    (s₁.idSize.toNat ≤ s₁.cfg.bufSize → (feedAction a s₁).idFrame = (feedAction a s₂).idFrame) := by
  obtain ⟨hcfg, hstate, hsize, hframe⟩ := h
  cases a with
  | boundary =>
    simp only [feedAction]
    by_cases hmin : Config.minFrame ≤ s₁.idSize.toNat
    · rw [feedBoundary_deliver hmin, feedBoundary_deliver (hsize ▸ hmin)]
      exact ⟨⟨[.rxFrame s₁.idFrame, answeredOk], by simp, by simp [hframe]⟩,
        rfl, rfl, fun _ => rfl⟩
    · rw [feedBoundary_drop hmin, feedBoundary_drop (hsize ▸ hmin)]
      exact ⟨⟨[answeredOk], rfl, rfl⟩, rfl, rfl, fun _ => rfl⟩
  | enterEsc => exact ⟨⟨[answeredOk], rfl, rfl⟩, rfl, hsize, fun _ => hframe⟩
  | store v =>
    simp only [feedAction]
    by_cases hfull : s₁.idSize.toNat = s₁.cfg.bufSize
    · rw [feedStore_full v hfull, feedStore_full v (hsize ▸ hcfg ▸ hfull)]
      exact ⟨⟨[answered 0x30000000 [] none], rfl, rfl⟩, rfl, rfl, fun _ => rfl⟩
    · rw [feedStore_fits v hfull, feedStore_fits v (hsize ▸ hcfg ▸ hfull)]
      refine ⟨⟨[answeredOk], rfl, rfl⟩, rfl, by simp [hsize], fun hle => ?_⟩
      have hlt : s₁.idSize.toNat < s₁.cfg.bufSize := Nat.lt_of_le_of_ne hle hfull
      calc (State.idAppend v { s₁ with idState := .normal }).idFrame
          = s₁.idFrame ++ [v] := State.idFrame_idAppend v hlt
        _ = s₂.idFrame ++ [v] := by rw [hframe]
        _ = (State.idAppend v { s₂ with idState := .normal }).idFrame :=
            (State.idFrame_idAppend v (s := { s₂ with idState := .normal }) (hsize ▸ hcfg ▸ hlt)).symm
  | badEscape => exact ⟨⟨[answered 0x40000000 [] none], rfl, rfl⟩, rfl, rfl, fun _ => rfl⟩

theorem putBytes_sameTxi {s₁ s₂ : State} (h : SameTxi s₁ s₂) (b : Byte) : s₁.putBytes b = s₂.putBytes b := by
  simp only [State.putBytes, State.tePreamble, h.size]

theorem endBytes_sameTxi {s₁ s₂ : State} (h : SameTxi s₁ s₂) : s₁.endBytes = s₂.endBytes := by
  simp only [State.endBytes, State.tePreamble, h.size]

theorem teOverflows_sameTxi {s₁ s₂ : State} (h : SameTxi s₁ s₂) (v : List Byte) :
    s₁.teOverflows v = s₂.teOverflows v := by
  simp only [State.teOverflows, h.cfg, h.size]

/-- The bytes of a command that does not overflow go to the end of both frames alike. -/
theorem teAppend_sameTxi {s₁ s₂ : State} (h : SameTxi s₁ s₂) {v : List Byte} (hfit : s₁.teOverflows v = false) :
    SameTxi (s₁.teAppend v) (s₂.teAppend v) where
  cfg := h.cfg
  size := by simp [h.size]
  frame := by
    have hle : s₁.teSize.toNat + v.length ≤ s₁.cfg.bufSize := by simpa [State.teOverflows] using hfit
    rw [State.teFrame_teAppend hle, State.teFrame_teAppend (h.size ▸ h.cfg ▸ hle), h.frame]

theorem teDiscard_sameTxi {s₁ s₂ : State} (h : SameTxi s₁ s₂) :
    AddsTheSame s₁ s₂ (teDiscard s₁) (teDiscard s₂) ∧ SameTxi (teDiscard s₁) (teDiscard s₂) :=
  ⟨⟨[answered 0x30000000 [] none], rfl, rfl⟩, h.cfg, rfl, rfl⟩

theorem putAction_sameTxi {s₁ s₂ : State} (h : SameTxi s₁ s₂) (v : List Byte) :
    AddsTheSame s₁ s₂ (putAction v s₁) (putAction v s₂) ∧ SameTxi (putAction v s₁) (putAction v s₂) := by
  simp only [putAction, ← teOverflows_sameTxi h v]
  cases hover : s₁.teOverflows v with
  | true => exact teDiscard_sameTxi h
  | false =>
    have ha := teAppend_sameTxi h hover
    exact ⟨⟨[answeredOk], rfl, rfl⟩, ha.cfg, ha.size, ha.frame⟩

theorem endAction_sameTxi {s₁ s₂ : State} (h : SameTxi s₁ s₂) (v : List Byte) :
    AddsTheSame s₁ s₂ (endAction v s₁) (endAction v s₂) ∧ SameTxi (endAction v s₁) (endAction v s₂) := by
  simp only [endAction, ← teOverflows_sameTxi h v]
  cases hover : s₁.teOverflows v with
  | true => exact teDiscard_sameTxi h
  | false =>
    have ha := teAppend_sameTxi h hover
    refine ⟨⟨[.txFrame (s₁.teAppend v).teFrame, answeredOk], ?_, ?_⟩, ha.cfg, rfl, rfl⟩
    · simp [teEmit]
    · simp [teEmit, ha.frame]

/-- Settles O55: each action of RXI and TXI adds to the trace and leaves in its unit what that unit's state gives. -/
theorem unitsCannotSeeEachOther : Obligations.UnitsCannotSeeEachOther := by
  intro s₁ s₂ hcfg
  refine ⟨fun hstate hsize hframe c => ?rxi, fun hsize hframe i hi => ?txi⟩
  case rxi =>
    obtain ⟨⟨new, h₁, h₂⟩, hrest⟩ := feedAction_sameRxi ⟨hcfg, hstate, hsize, hframe⟩ (escStep s₁.idState c).1
    exact ⟨_, _, new, execDecFeed_eq c s₁, hstate ▸ execDecFeed_eq c s₂, h₁, h₂, hrest⟩
  case txi =>
    have h : SameTxi s₁ s₂ := ⟨hcfg, hsize, hframe⟩
    rcases hi with rfl | ⟨b, rfl⟩
    · obtain ⟨⟨new, h₁, h₂⟩, -, hsize', hframe'⟩ := endAction_sameTxi h s₁.endBytes
      exact ⟨_, _, new, execEncEnd_eq s₁, endBytes_sameTxi h ▸ execEncEnd_eq s₂, h₁, h₂, hsize', hframe'⟩
    · obtain ⟨⟨new, h₁, h₂⟩, -, hsize', hframe'⟩ := putAction_sameTxi h (s₁.putBytes b)
      exact ⟨_, _, new, execEncPut_eq b s₁, putBytes_sameTxi h b ▸ execEncPut_eq b s₂, h₁, h₂, hsize', hframe'⟩

/-! ### Renaming error values (R11) -/

/-- A choice between two values, under a function that makes of each the value of another such choice. -/
theorem ite_eq_apply_ite {α β : Type} {g : α → β} {c d : Prop} [Decidable c] [Decidable d] {x y : α} {u v : β}
    (hc : d ↔ c) (ht : c → u = g x) (he : ¬c → v = g y) : (if d then u else v) = g (if c then x else y) := by
  by_cases h : c
  · rw [if_pos h, if_pos (hc.2 h), ht h]
  · rw [if_neg h, if_neg (mt hc.1 h), he h]

section

variable (f : ChanErr → ChanErr) (s : State)

@[simp] theorem State.mapErr_idState : (s.mapErr f).idState = s.idState := rfl
@[simp] theorem State.mapErr_bdEsc : (s.mapErr f).bdEsc = s.bdEsc := rfl
@[simp] theorem State.mapErr_bdCache : (s.mapErr f).bdCache = s.bdCache := rfl
@[simp] theorem State.mapErr_resetIn : (s.mapErr f).resetIn = s.resetIn := rfl
@[simp] theorem State.mapErr_port : (s.mapErr f).port = s.port := rfl
@[simp] theorem State.mapErr_putBytes (b : Byte) : (s.mapErr f).putBytes b = s.putBytes b := rfl
@[simp] theorem State.mapErr_endBytes : (s.mapErr f).endBytes = s.endBytes := rfl

theorem State.mapErr_log (x : TraceItem) : (s.log x).mapErr f = (s.mapErr f).log (x.mapErr f) := by
  simp [State.mapErr, State.log]

theorem State.mapErr_respond (st : Status) (len aux : Count) (d : List Byte) (e : Option ChanErr) :
    (s.respond st len aux d e).mapErr f = (s.mapErr f).respond st len aux d (e.map f) := by
  simp [State.mapErr, State.respond, TraceItem.mapErr]

/-- A response without an error value stays as it is. -/
theorem State.mapErr_respond_none (st : Status) (len aux : Count) (d : List Byte) :
    (s.respond st len aux d none).mapErr f = (s.mapErr f).respond st len aux d none :=
  s.mapErr_respond f st len aux d none

theorem State.mapErr_raise (st : Status) : (s.raise st).mapErr f = (s.mapErr f).raise st :=
  s.mapErr_respond f st 0 0 [] none

theorem State.mapErr_respondOk : s.respondOk.mapErr f = (s.mapErr f).respondOk := s.mapErr_respond f .ok 0 0 [] none

theorem State.mapErr_written (w : List Byte) (n : Nat) (e : Option ChanErr) :
    (s.written w n e).mapErr f = (s.mapErr f).written w n (e.map f) := by
  simp only [State.written, State.mapErr_log, TraceItem.mapErr]

end

/-! ### The commands under a renaming -/

section

variable (f : ChanErr → ChanErr) (s : State)

theorem feedAction_mapErr (a : Action) : feedAction a (s.mapErr f) = (feedAction a s).mapErr f := by
  cases a with
  | boundary =>
    change feedBoundary _ = (feedBoundary s).mapErr f
    by_cases h : Config.minFrame ≤ s.idSize.toNat
    · rw [feedBoundary_deliver h, feedBoundary_deliver (s := s.mapErr f) h, State.mapErr_respondOk]
      simp [State.mapErr, State.log, TraceItem.mapErr, State.idFrame]
    · rw [feedBoundary_drop h, feedBoundary_drop (s := s.mapErr f) h, State.mapErr_respondOk]
      rfl
  | enterEsc => exact (State.mapErr_respondOk f { s with idState := .escaped }).symm
  | store v =>
    change feedStore v _ = (feedStore v s).mapErr f
    by_cases h : s.idSize.toNat = s.cfg.bufSize
    · rw [feedStore_full v h, feedStore_full (s := s.mapErr f) v h, State.mapErr_raise]
      rfl
    · rw [feedStore_fits v h, feedStore_fits (s := s.mapErr f) v h, State.mapErr_respondOk]
      rfl
  | badEscape => exact (State.mapErr_raise f { s with idSize := 0, idState := .normal } .unknownEscapedByte).symm

theorem teDiscard_mapErr : teDiscard (s.mapErr f) = (teDiscard s).mapErr f :=
  (State.mapErr_raise f { s with teSize := 0 } .bufferOverflow).symm

theorem teEmit_mapErr : teEmit (s.mapErr f) = (teEmit s).mapErr f := by
  rw [teEmit, teEmit, State.mapErr_respondOk]
  simp [State.mapErr, State.log, TraceItem.mapErr, State.teFrame]

theorem putAction_mapErr (v : List Byte) : putAction v (s.mapErr f) = (putAction v s).mapErr f :=
  ite_eq_apply_ite Iff.rfl (fun _ => teDiscard_mapErr f s)
    fun _ => (State.mapErr_respondOk f (s.teAppend v)).symm

theorem endAction_mapErr (v : List Byte) : endAction v (s.mapErr f) = (endAction v s).mapErr f :=
  ite_eq_apply_ite Iff.rfl (fun _ => teDiscard_mapErr f s) fun _ => teEmit_mapErr f (s.teAppend v)

/-- OK or CHANNEL_ERROR is chosen by whether there is an error value, not by which (R134). -/
theorem writeStatus_map (e : Option ChanErr) : writeStatus (e.map f) = writeStatus e := by cases e <;> rfl

/-- A write whose answer is placed passes its error value on, where what follows does. -/
theorem State.chanWrite_mapErr {w : List Byte} {k : Nat → Option ChanErr → State → Host.Outcome State Fault Refusal}
    (hk : ∀ n e u, k n (e.map f) (u.mapErr f) = mapNext (State.mapErr f) (k n e u)) (hw : s.writeAnswers ≠ []) :
    (s.mapErr f).chanWrite w k = mapNext (State.mapErr f) (s.chanWrite w k) := by
  obtain ⟨a, later, ha⟩ := List.exists_cons_of_ne_nil hw
  have ha' : (s.mapErr f).writeAnswers =
      { a with err := a.err.map f } :: later.map fun a => { a with err := a.err.map f } := by simp [State.mapErr, ha]
  simp only [State.chanWrite, ha, ha']
  split
  · rw [← hk, State.mapErr_written]
    rfl
  · rfl

theorem execEncBlock_mapErr (p : List Byte) (hw : (frame p).length ≤ s.cfg.bufSize → s.writeAnswers ≠ []) :
    execEncBlock p (s.mapErr f) = mapNext (State.mapErr f) (execEncBlock p s) := by
  refine ite_eq_apply_ite Iff.rfl (fun _ => ?overflow) fun hfit => ?write
  case overflow => exact congrArg Host.Outcome.next (State.mapErr_raise f s .bufferOverflow).symm
  case write =>
    refine State.chanWrite_mapErr f s (fun n e u => ?_) (hw (Nat.le_of_not_lt hfit))
    rw [writeStatus_map, ← State.mapErr_respond]
    rfl

/-- No command reads an error value, where ENC_BLOCK's answer is one of those renamed. -/
theorem exec_mapErr (i : Instr)
    (hw : ∀ len p, i = .encBlock len p → (frame p).length ≤ s.cfg.bufSize → s.writeAnswers ≠ []) :
    exec i (s.mapErr f) = mapNext (State.mapErr f) (exec i s) := by
  cases i with
  | decFeed c =>
    change execDecFeed c _ = mapNext _ (execDecFeed c s)
    rw [execDecFeed_eq, execDecFeed_eq, State.mapErr_idState, feedAction_mapErr]
    rfl
  | encPut b =>
    change execEncPut b _ = mapNext _ (execEncPut b s)
    rw [execEncPut_eq, execEncPut_eq, State.mapErr_putBytes, putAction_mapErr]
    rfl
  | encEnd =>
    change execEncEnd _ = mapNext _ (execEncEnd s)
    rw [execEncEnd_eq, execEncEnd_eq, State.mapErr_endBytes, endAction_mapErr]
    rfl
  | encBlock len p => exact execEncBlock_mapErr f s p (hw len p rfl)
  | decBlock cap hint => rfl

/-! ### A micro-step under a renaming -/

theorem scanStore_mapErr (v : Byte) : scanStore v (s.mapErr f) = (scanStore v s).mapErr f :=
  ite_eq_apply_ite Iff.rfl (fun _ => (State.mapErr_respond_none f { s with bdSize := 0, bdEsc := .normal } ..).symm)
    fun _ => rfl

theorem scanBoundary_mapErr : scanBoundary (s.mapErr f) = (scanBoundary s).mapErr f :=
  ite_eq_apply_ite Iff.rfl (fun _ => (State.mapErr_respond_none f { s with bdSize := 0 } ..).symm)
    fun _ => (State.mapErr_respond_none f { s with bdSize := 0 } ..).symm

theorem scanBadEscape_mapErr : scanBadEscape (s.mapErr f) = (scanBadEscape s).mapErr f :=
  (State.mapErr_respond_none f { s with bdSize := 0 } ..).symm

theorem syncedByte_mapErr (c : Byte) : syncedByte c (s.mapErr f) = (syncedByte c s).mapErr f := by
  simp only [syncedByte, State.mapErr_bdEsc]
  cases (escStep s.bdEsc c).1 with
  | boundary => exact scanBoundary_mapErr f { s with bdEsc := (escStep s.bdEsc c).2 }
  | enterEsc => rfl
  | store v => exact scanStore_mapErr f { s with bdEsc := (escStep s.bdEsc c).2 } v
  | badEscape => exact scanBadEscape_mapErr f { s with bdEsc := (escStep s.bdEsc c).2 }

theorem scanByte_mapErr (c : Byte) : scanByte c (s.mapErr f) = (scanByte c s).mapErr f :=
  ite_eq_apply_ite Iff.rfl (fun _ => syncedByte_mapErr f s c) fun _ => rfl

/-- Where it is no free one, the answer a read gets is the renamed one, and the same answers are left. -/
theorem State.nextRead_mapErr (h : Count) (hfree : s.readAnswers = [] → s.laterReads ≠ .free) :
    (s.mapErr f).nextRead h = ((s.nextRead h).1.map (ReadAnswer.mapErr f), (s.nextRead h).2.mapErr f) := by
  cases hr : s.readAnswers with
  | cons a later => simp [State.nextRead, State.mapErr, hr]
  | nil =>
    cases hl : s.laterReads with
    | silent => simp [State.nextRead, State.mapErr, LaterReads.mapErr, hr, hl]
    | again first more => simp [State.nextRead, State.mapErr, LaterReads.mapErr, hr, hl]
    | free => exact absurd hl (hfree hr)

/-- A read whose answer is no free one passes its error value on, where what follows does. -/
theorem State.chanRead_mapErr {h : Count}
    {k : List Byte → Option ChanErr → State → Host.Outcome State Fault Refusal}
    (hk : ∀ c e u, k c (e.map f) (u.mapErr f) = mapNext (State.mapErr f) (k c e u))
    (hfree : s.readPending = false → s.readAnswers = [] → s.laterReads ≠ .free) :
    (s.mapErr f).chanRead h k = mapNext (State.mapErr f) (s.chanRead h k) := by
  refine ite_eq_apply_ite Iff.rfl (fun _ => rfl) fun hp => ?asks
  case asks =>
    simp only [State.nextRead_mapErr f s h (hfree (Bool.eq_false_of_not_eq_true hp))]
    cases (s.nextRead h).1 with
    | none => simp [mapNext, State.mapErr, State.log, TraceItem.mapErr]
    | some a =>
      refine ite_eq_apply_ite Iff.rfl (fun _ => ?answered) fun _ => rfl
      case answered =>
        rw [← hk, State.mapErr_log, State.mapErr_log]
        rfl

theorem decRead_mapErr (hfree : s.readPending = false → s.readAnswers = [] → s.laterReads ≠ .free) :
    decRead (s.mapErr f) = mapNext (State.mapErr f) (decRead s) := by
  refine State.chanRead_mapErr f s (fun c e u => ?_) hfree
  cases e with
  | some e => exact congrArg Host.Outcome.next (State.mapErr_respond f { u with bdCache := c } _ _ _ _ (some e)).symm
  | none =>
    exact ite_eq_apply_ite Iff.rfl
      (fun _ => congrArg Host.Outcome.next (State.mapErr_respond_none f u ..).symm) fun _ => rfl

theorem decMicroStep_mapErr
    (hfree : s.bdCache = [] → s.readPending = false → s.readAnswers = [] → s.laterReads ≠ .free) :
    decMicroStep (s.mapErr f) = mapNext (State.mapErr f) (decMicroStep s) := by
  cases hc : s.bdCache with
  | nil => simpa [decMicroStep, hc] using decRead_mapErr f s (hfree hc)
  | cons c rest =>
    simp only [decMicroStep, State.mapErr_bdCache, hc]
    exact congrArg Host.Outcome.next (scanByte_mapErr f { s with bdCache := rest } c)

/-! ### A step under a renaming -/

theorem acceptCommand_mapErr
    (hw : ∀ len p rest, decode s.port = .command (.encBlock len p) rest →
      (frame p).length ≤ s.cfg.bufSize → s.writeAnswers ≠ []) :
    acceptCommand (s.mapErr f) = mapNext (State.mapErr f) (acceptCommand s) := by
  simp only [acceptCommand, State.mapErr_port]
  cases hd : decode s.port with
  | nothing => rfl
  | command i rest => exact exec_mapErr f { s with port := rest } i fun len p hi => hw len p rest (hi ▸ hd)
  | illegal w rest => exact congrArg Host.Outcome.next (State.mapErr_raise f { s with port := rest } _).symm
  | strayByte b => rfl
  | payloadMissing len => rfl

/-- The step from this state draws no free answer: what `ErrorValuesPassThroughUnread` asks of a state. -/
def State.DrawsNoFreeAnswer (s : State) : Prop :=
  (∀ len p rest, s.busy = false → decode s.port = .command (.encBlock len p) rest →
    (frame p).length ≤ s.cfg.bufSize → s.writeAnswers ≠ []) ∧
  (s.busy = true → s.bdCache = [] → s.readPending = false → s.readAnswers = [] → s.laterReads ≠ .free)

theorem advance_mapErr (h : s.DrawsNoFreeAnswer) :
    advance (s.mapErr f) = mapNext (State.mapErr f) (advance s) := by
  obtain ⟨hwrite, hread⟩ := h
  refine ite_eq_apply_ite Iff.rfl (fun _ => ite_eq_apply_ite Iff.rfl (fun hb => ?micro) fun hb => ?accept) fun _ => rfl
  case micro => exact decMicroStep_mapErr f s (hread hb)
  case accept => exact acceptCommand_mapErr f s fun len p rest => hwrite len p rest (Bool.eq_false_of_not_eq_true hb)

theorem step_mapErr (h : s.DrawsNoFreeAnswer) : step (s.mapErr f) = mapNext (State.mapErr f) (step s) := by
  simp only [step, cycle, State.mapErr_resetIn]
  split
  · exact advance_mapErr f s h
  · rfl
  · next n later _ => exact advance_mapErr f { s with resetIn := n :: later } h

end

/-- Settles O56: every part of a step commutes with the renaming, by cases on what the step does. -/
theorem errorValuesPassThroughUnread : Obligations.ErrorValuesPassThroughUnread := by
  intro s f hwrite hread
  exact step_mapErr f s ⟨hwrite, hread⟩

end Sys2Proof.Machine
end

section
/-! PROOFS. The statements on the state (10_state.md): the reset values, the invariant of R40, what a run from reset
holds in its buffers, and the sync flag. -/

namespace Sys2Proof.Machine

/-! ### The state right after reset (R43) -/

/-- Settles O46: the values of `State.assertReset`, by the step of an asserted reset. -/
theorem resetGivesEveryElementItsResetValue : Obligations.ResetGivesEveryElementItsResetValue := by
  refine ⟨fun s later hr => ⟨_, step_reset hr, ?values, ?outside⟩, ?reset, rfl⟩
  case values => simp
  case outside => simp
  case reset => decide

/-- Whatever the machine was doing, an asserted reset leaves it in the invariant. -/
theorem inv_assertReset (s : State) (later : List Nat) : Inv { s.assertReset with resetIn := later } where
  txi := ⟨BufferInv.empty s.cfg, .inl rfl, fun hne => absurd rfl hne⟩
  rxi := BufferInv.empty s.cfg
  rxb := {
    buffer := BufferInv.empty s.cfg
    hunting := fun _ => ⟨rfl, rfl⟩
    cache := Nat.zero_le _
    operands := fun hb => nomatch hb
    pending := fun hp => nomatch hp }

/-- A machine just reset is one on which a reset has been asserted. -/
theorem Started.eq_assertReset {s : State} (h : Started s) : s = { s.assertReset with resetIn := s.resetIn } := by
  obtain ⟨cfg, resets, items, reads, later, writes, rfl⟩ := h
  rfl

/-- Settles O49. -/
theorem invariantHoldsAtReset : Obligations.InvariantHoldsAtReset := by
  intro s h
  rw [h.eq_assertReset]
  exact inv_assertReset s s.resetIn

/-! ### TXI's part of the invariant -/

theorem State.tePreamble_of_empty {s : State} (h : s.teSize = 0) : s.tePreamble = preamble := if_pos h

theorem State.tePreamble_of_open {s : State} (h : s.teSize ≠ 0) : s.tePreamble = [] := if_neg h

/-- TXI's part speaks of the build, TXI's buffer and its size only. -/
theorem TxiInv.congr {s t : State} (h : TxiInv s) (hcfg : t.cfg = s.cfg) (hbuf : t.teBuf = s.teBuf)
    (hsize : t.teSize = s.teSize) : TxiInv t where
  buffer := by rw [hcfg, hbuf, hsize]; exact h.buffer
  closed := by rw [hsize]; exact h.closed
  opens := by
    have hframe : t.teFrame = s.teFrame := by simp only [State.teFrame, hbuf, hsize]
    rw [hsize, hframe]
    exact h.opens

/-- With no frame open, TXI's part asks for no more than a buffer in order. -/
theorem TxiInv.of_empty {s : State} (h : BufferInv s.cfg s.teBuf s.teSize) (hsize : s.teSize = 0) : TxiInv s :=
  ⟨h, .inl hsize, fun hne => absurd hsize hne⟩

/-- A command's bytes that fit go behind the preamble, which is in the frame already or comes with them (R212). -/
theorem TxiInv.teAppend {s : State} (h : TxiInv s) {w : List Byte} (hw : w ≠ [])
    (hfit : s.teSize.toNat + (s.tePreamble ++ w).length ≤ s.cfg.bufSize) :
    TxiInv (s.teAppend (s.tePreamble ++ w)) := by
  have hlen : 0 < w.length := List.length_pos_iff.2 hw
  have hgrown : (s.teAppend (s.tePreamble ++ w)).teSize.toNat = s.teSize.toNat + (s.tePreamble ++ w).length :=
    toNat_count_of_le s.cfg hfit
  have hframe := State.teFrame_teAppend hfit
  refine ⟨h.buffer.append hfit, .inr ?_, fun _ => ?_⟩ <;> by_cases hopen : s.teSize = 0
  · rw [hgrown, State.tePreamble_of_empty hopen, List.length_append]
    simp only [preamble, List.length_cons, List.length_nil]
    omega
  · have hthree := h.closed.resolve_left hopen
    rw [hgrown]
    omega
  · have hnone : s.teFrame = [] := by simp [State.teFrame, hopen]
    rw [hframe, hnone, State.tePreamble_of_empty hopen]
    rfl
  · have hthree := h.closed.resolve_left hopen
    rw [hframe, List.take_append_of_le_length (by rw [State.length_teFrame]; omega)]
    exact h.opens hopen

theorem TxiInv.teDiscard {s : State} (h : TxiInv s) : TxiInv (teDiscard s) := .of_empty h.buffer.clear rfl

theorem esc_ne_nil (b : Byte) : esc b ≠ [] := by
  rcases esc_cases b with ⟨-, h⟩ | ⟨-, h⟩ | ⟨-, -, h⟩ <;> simp [h]

theorem execEncPut_txiInv {b : Byte} {s t : State} (h : TxiInv s) (he : execEncPut b s = .next t) : TxiInv t := by
  rcases execEncPut_cases b s with ⟨-, hover⟩ | ⟨hfit, happend⟩
  · cases hover.symm.trans he
    exact h.teDiscard
  · cases happend.symm.trans he
    exact (h.teAppend (esc_ne_nil b) hfit).congr rfl rfl rfl

theorem execEncEnd_txiInv {s t : State} (h : TxiInv s) (he : execEncEnd s = .next t) : TxiInv t := by
  rcases execEncEnd_cases s with ⟨-, hover⟩ | ⟨hfit, hemit⟩
  · cases hover.symm.trans he
    exact h.teDiscard
  · cases hemit.symm.trans he
    exact .of_empty (h.buffer.append hfit).clear rfl

/-! ### RXI's part of the invariant -/

/-- A store below BUF_SIZE appends one byte; every other action keeps the frame's size or sets it back to 0. -/
theorem feedAction_bufferInv (a : Action) {s : State} (h : BufferInv s.cfg s.idBuf s.idSize) :
    BufferInv (feedAction a s).cfg (feedAction a s).idBuf (feedAction a s).idSize := by
  cases a with
  | boundary =>
    simp only [feedAction]
    by_cases hmin : Config.minFrame ≤ s.idSize.toNat
    · rw [feedBoundary_deliver hmin]; exact h.clear
    · rw [feedBoundary_drop hmin]; exact h.clear
  | enterEsc => exact h
  | store v =>
    simp only [feedAction]
    by_cases hfull : s.idSize.toNat = s.cfg.bufSize
    · rw [feedStore_full v hfull]; exact h.clear
    · rw [feedStore_fits v hfull]
      exact h.append (v := [v]) (Nat.lt_of_le_of_ne h.bound hfull)
  | badEscape => exact h.clear

/-! ### RXB's part of the invariant: the other commands -/

/-- An idle machine waits for no read. -/
theorem RxbInv.not_pending_of_idle {s : State} (h : RxbInv s) (hidle : s.busy = false) : s.readPending = false := by
  cases hp : s.readPending with
  | false => rfl
  | true => exact nomatch hidle.symm.trans (h.pending hp).1

/-- A machine with a byte cached waits for no read (R153). -/
theorem RxbInv.not_pending_of_cached {s : State} {c : Byte} {rest : List Byte} (h : RxbInv s)
    (hc : s.bdCache = c :: rest) : s.readPending = false := by
  cases hp : s.readPending with
  | false => rfl
  | true => exact nomatch hc.symm.trans (h.pending hp).2

theorem toNat_clampOperand_le (cfg : Config) (v : Count) : (clampOperand cfg v).toNat ≤ cfg.bufSize := by
  have hle : min v.toNat cfg.bufSize ≤ cfg.bufSize := Nat.min_le_right ..
  rw [clampOperand, toNat_count_of_le cfg hle]
  exact hle

/-- A command leaves SLIPCORE busy only with operands within BUF_SIZE: it is a DEC_BLOCK, and its entry clamps them
(R152). -/
theorem exec_operands {i : Instr} {s t : State} (h : exec i s = .next t) (hbusy : t.busy = true) :
    t.opCap.toNat ≤ t.cfg.bufSize ∧ t.opHint.toNat ≤ t.cfg.bufSize := by
  by_cases hi : ∃ cap hint, i = .decBlock cap hint
  · obtain ⟨cap, hint, rfl⟩ := hi
    cases h
    exact ⟨toNat_clampOperand_le s.cfg cap, toNat_clampOperand_le s.cfg hint⟩
  · obtain ⟨hidle, -⟩ := eachCommandEndsWithOneResponse i s t (fun cap hint he => hi ⟨cap, hint, he⟩) h
    exact nomatch hidle.symm.trans hbusy

/-- A command accepted by an idle machine keeps RXB's part: it writes none of RXB's state but the operands. -/
theorem exec_rxbInv {i : Instr} {s t : State} (h : RxbInv s) (hidle : s.busy = false) (he : exec i s = .next t) :
    RxbInv t := by
  obtain ⟨hcfg, -, -, -, -, -, hpending, hsynced, hesc, hbuf, hsize, hcache, -⟩ :=
    commandsWriteTheirOwnUnitOnly i s t he
  exact {
    buffer := by rw [hcfg, hbuf, hsize]; exact h.buffer
    hunting := by rw [hsynced, hsize, hesc]; exact h.hunting
    cache := by rw [hcache, hcfg]; exact h.cache
    operands := exec_operands he
    pending := fun hp => nomatch (hpending.trans (h.not_pending_of_idle hidle)).symm.trans hp }

/-- A response keeps RXB's part, where no read is pending. -/
theorem RxbInv.respond {s : State} (h : RxbInv s) (hp : s.readPending = false) (st : Status) (len aux : Count)
    (d : List Byte) (e : Option ChanErr) : RxbInv (s.respond st len aux d e) where
  buffer := h.buffer
  hunting := h.hunting
  cache := h.cache
  operands := fun hb => nomatch hb
  pending := fun hpend => nomatch hp.symm.trans hpend

/-! ### The whole invariant under a command -/

/-- The invariant does not speak of the reset input and the command port. -/
theorem Inv.with_inputs {s : State} (h : Inv s) (resets : List Nat) (items : List PortItem) :
    Inv { s with resetIn := resets, port := items } where
  txi := h.txi.congr rfl rfl rfl
  rxi := h.rxi
  rxb := ⟨h.rxb.buffer, h.rxb.hunting, h.rxb.cache, h.rxb.operands, h.rxb.pending⟩

/-- ENC_PUT and ENC_END keep TXI's part; no other command writes TXI. -/
theorem exec_txiInv {i : Instr} {s t : State} (h : TxiInv s) (he : exec i s = .next t) : TxiInv t := by
  obtain ⟨hcfg, -, -, -, -, -, -, -, -, -, -, -, -, hte, -⟩ := commandsWriteTheirOwnUnitOnly i s t he
  by_cases hput : ∃ b, i = .encPut b
  · obtain ⟨b, rfl⟩ := hput
    exact execEncPut_txiInv h he
  · by_cases hend : i = .encEnd
    · subst hend
      exact execEncEnd_txiInv h he
    · obtain ⟨hbuf, hsize⟩ := hte (fun b hb => hput ⟨b, hb⟩) hend
      exact h.congr hcfg hbuf hsize

/-- DEC_FEED keeps RXI's part; no other command writes RXI. -/
theorem exec_rxiInv {i : Instr} {s t : State} (h : BufferInv s.cfg s.idBuf s.idSize) (he : exec i s = .next t) :
    BufferInv t.cfg t.idBuf t.idSize := by
  obtain ⟨hcfg, -, -, -, -, -, -, -, -, -, -, -, hid, -⟩ := commandsWriteTheirOwnUnitOnly i s t he
  by_cases hfeed : ∃ c, i = .decFeed c
  · obtain ⟨c, rfl⟩ := hfeed
    cases (execDecFeed_eq c s).symm.trans he
    exact feedAction_bufferInv _ h
  · obtain ⟨-, hbuf, hsize⟩ := hid fun c hc => hfeed ⟨c, hc⟩
    rw [hcfg, hbuf, hsize]
    exact h

/-- A command accepted by an idle machine keeps the invariant. -/
theorem exec_inv {i : Instr} {s t : State} (h : Inv s) (hidle : s.busy = false) (he : exec i s = .next t) : Inv t :=
  ⟨exec_txiInv h.txi he, exec_rxiInv h.rxi he, exec_rxbInv h.rxb hidle he⟩

/-! ### What a micro-step writes (R167) -/

/-- A scanned byte writes RXB's frame and flags, `busy` and the trace. -/
theorem scanByte_frame (c : Byte) (s : State) :
    scanByte c s =
      { s with
        busy := (scanByte c s).busy, bdSynced := (scanByte c s).bdSynced, bdEsc := (scanByte c s).bdEsc
        bdBuf := (scanByte c s).bdBuf, bdSize := (scanByte c s).bdSize, trace := (scanByte c s).trace } := by
  rcases scanByte_cases c s with
    ⟨-, h⟩ | ⟨-, ⟨-, h⟩ | ⟨v, -, -, h⟩ | ⟨v, -, -, h⟩ | ⟨-, h⟩ | ⟨-, -, h⟩ | ⟨-, -, h⟩⟩ <;> rw [h] <;> rfl

/-- A read's answer changes the channel's side and the trace only. -/
theorem State.afterRead_frame (a : ReadAnswer) (s : State) :
    s.afterRead a =
      { s with
        readAnswers := (s.afterRead a).readAnswers, freeDraws := (s.afterRead a).freeDraws
        trace := (s.afterRead a).trace } := by
  simp only [State.afterRead]
  rw [State.nextRead_snd]
  rfl

/-- A micro-step with a byte cached scans it (R157). -/
theorem decMicroStep_scan {s : State} {c : Byte} {rest : List Byte} (hc : s.bdCache = c :: rest) :
    decMicroStep s = .next (scanByte c { s with bdCache := rest }) := by
  simp only [decMicroStep, hc]

/-- A micro-step with an empty cache writes the cache, the pending read, the channel's side, `busy` and the trace. -/
theorem decMicroStep_read_frame {s t : State} (hc : s.bdCache = []) (h : decMicroStep s = .next t) :
    t = { s with
            busy := t.busy, bdCache := t.bdCache, readPending := t.readPending, readAnswers := t.readAnswers
            freeDraws := t.freeDraws, trace := t.trace } := by
  rcases decMicroStep_cases s with ⟨c, rest, hcons, -⟩ | ⟨-, ⟨-, he⟩ | ⟨-, ⟨-, he⟩ | ⟨a, -, ⟨-, he⟩ |
      ⟨-, ⟨e, -, he⟩ | ⟨-, -, he⟩ | ⟨-, -, he⟩⟩⟩⟩⟩
  case inl => exact nomatch hc.symm.trans hcons
  all_goals cases he.symm.trans h
  · rfl
  · rw [State.nextRead_snd]; rfl
  all_goals rw [State.afterRead_frame] <;> rfl

/-- A micro-step writes RXB's state, the pending read, the channel's side, `busy` and the trace only. -/
theorem decMicroStep_frame {s t : State} (h : decMicroStep s = .next t) :
    t = { s with
            busy := t.busy, bdSynced := t.bdSynced, bdEsc := t.bdEsc, bdBuf := t.bdBuf, bdSize := t.bdSize
            bdCache := t.bdCache, readPending := t.readPending, readAnswers := t.readAnswers
            freeDraws := t.freeDraws, trace := t.trace } := by
  cases hc : s.bdCache with
  | nil => rw [decMicroStep_read_frame hc h]
  | cons c rest =>
    cases (decMicroStep_scan hc).symm.trans h
    rw [scanByte_frame]

/-! ### RXB's part of the invariant: the micro-steps -/

/-- A scanned byte that ends the command, discarding or returning the frame, keeps RXB's part. -/
theorem RxbInv.endFrame {s : State} (h : RxbInv s) (hp : s.readPending = false) (st : Status) (len aux : Count)
    (d : List Byte) (e : Option ChanErr) :
    RxbInv (State.respond st len aux d e { s with bdEsc := .normal, bdSize := 0 }) :=
  RxbInv.respond (s := { s with bdEsc := .normal, bdSize := 0 })
    ⟨h.buffer.clear, fun _ => ⟨rfl, rfl⟩, h.cache, h.operands, h.pending⟩ hp st len aux d e

/-- A scanned byte keeps RXB's part: a byte is stored only below `op_cap`, which is within BUF_SIZE (R161). -/
theorem scanByte_rxbInv {s : State} (c : Byte) (h : RxbInv s) (hbusy : s.busy = true) (hp : s.readPending = false) :
    RxbInv (scanByte c s) := by
  rcases scanByte_cases c s with ⟨hhunt, he⟩ | ⟨hsync, ⟨-, he⟩ | ⟨v, -, hlt, he⟩ | ⟨v, -, -, he⟩ | ⟨-, he⟩ |
      ⟨-, -, he⟩ | ⟨-, -, he⟩⟩ <;> rw [he]
  · exact ⟨h.buffer, fun _ => h.hunting hhunt, h.cache, h.operands, h.pending⟩
  · exact ⟨h.buffer, (fun hs => nomatch hsync.symm.trans hs), h.cache, h.operands, h.pending⟩
  · have hroom : s.bdSize.toNat + [v].length ≤ s.cfg.bufSize := Nat.le_trans hlt (h.operands hbusy).1
    exact ⟨h.buffer.append hroom, (fun hs => nomatch hsync.symm.trans hs), h.cache, h.operands, h.pending⟩
  all_goals exact h.endFrame hp ..

/-- What is left to show of a micro-step that writes no more of RXB than the cache and the pending read. -/
theorem RxbInv.of_read_frame {s t : State} (h : RxbInv s)
    (hframe : t = { s with
      busy := t.busy, bdCache := t.bdCache, readPending := t.readPending, readAnswers := t.readAnswers
      freeDraws := t.freeDraws, trace := t.trace })
    (hbusy : s.busy = true) (hcache : t.bdCache.length ≤ s.cfg.bufSize)
    (hpending : t.readPending = true → t.busy = true ∧ t.bdCache = []) : RxbInv t := by
  rw [hframe]
  exact ⟨h.buffer, h.hunting, hcache, fun _ => h.operands hbusy, hpending⟩

/-- A micro-step with an empty cache keeps RXB's part: the bytes it caches are no more than `op_hint`, which is within
BUF_SIZE, and a read it leaves pending leaves the cache empty (R153 to R156). -/
theorem read_rxbInv {s t : State} (h : RxbInv s) (hbusy : s.busy = true) (hc : s.bdCache = [])
    (he : decMicroStep s = .next t) : RxbInv t := by
  have hframe := decMicroStep_read_frame hc he
  have hhint := (h.operands hbusy).2
  rcases decMicroStep_cases s with ⟨c, rest, hcons, -⟩ | ⟨-, ⟨-, hm⟩ | ⟨hp, ⟨-, hm⟩ | ⟨a, -, ⟨-, hm⟩ |
      ⟨hlen, ⟨e, -, hm⟩ | ⟨-, -, hm⟩ | ⟨-, -, hm⟩⟩⟩⟩⟩
  case inl => exact nomatch hc.symm.trans hcons
  all_goals cases hm.symm.trans he
  · exact h
  · exact h.of_read_frame hframe hbusy (by simp [hc]) fun _ => by simp [hbusy, hc]
  · exact h.of_read_frame hframe hbusy (Nat.le_trans hlen hhint) fun hpend => by simp [hp] at hpend
  · exact h.of_read_frame hframe hbusy (by simp [hc]) fun hpend => by simp [hp] at hpend
  · exact h.of_read_frame hframe hbusy (Nat.le_trans hlen hhint) fun hpend => by simp [hp] at hpend

/-- A micro-step keeps RXB's part. -/
theorem decMicroStep_rxbInv {s t : State} (h : RxbInv s) (hbusy : s.busy = true) (he : decMicroStep s = .next t) :
    RxbInv t := by
  cases hc : s.bdCache with
  | nil => exact read_rxbInv h hbusy hc he
  | cons c rest =>
    have hp := h.not_pending_of_cached hc
    have hrest : rest.length ≤ s.cfg.bufSize := by
      have hall := h.cache
      rw [hc, List.length_cons] at hall
      omega
    cases (decMicroStep_scan hc).symm.trans he
    exact scanByte_rxbInv c
      ⟨h.buffer, h.hunting, hrest, h.operands, fun hpend => nomatch hp.symm.trans hpend⟩ hbusy hp

/-- A micro-step keeps the invariant: it writes nothing of TXI and RXI. -/
theorem decMicroStep_inv {s t : State} (h : Inv s) (hbusy : s.busy = true) (he : decMicroStep s = .next t) : Inv t where
  txi := by rw [decMicroStep_frame he]; exact h.txi.congr rfl rfl rfl
  rxi := by rw [decMicroStep_frame he]; exact h.rxi
  rxb := decMicroStep_rxbInv h.rxb hbusy he

/-! ### The invariant under a step, and in a run -/

/-- Settles O50, by cases on what the step does. -/
theorem everyStepKeepsTheInvariant : Obligations.EveryStepKeepsTheInvariant := by
  intro s t h hstep
  rcases step_cases hstep with ⟨later, -, rfl⟩ | ⟨-, -, resets, ⟨hbusy, hm⟩ | ⟨hidle, ⟨-, rfl⟩ |
      ⟨i, rest, -, he⟩ | ⟨w, rest, -, rfl⟩⟩⟩
  · exact inv_assertReset s later
  · exact decMicroStep_inv (h.with_inputs resets s.port) hbusy hm
  · exact h.with_inputs resets s.port
  · exact exec_inv (h.with_inputs resets rest) hidle he
  · have hin := h.with_inputs resets rest
    exact ⟨hin.txi.congr rfl rfl rfl, hin.rxi, hin.rxb.respond (h.rxb.not_pending_of_idle hidle) ..⟩

/-- A run whose first step is refused is refused. -/
theorem runSteps_refused {n : Nat} {s : State} {r : Refusal} (h : step s = .refused r) :
    runSteps (n + 1) s = .refused r := by
  have hcore : Sys2Proof.core.step s = .refused r := h
  simp only [runSteps, Host.Core.run]
  rw [hcore]
  rfl

/-- What every step keeps, a run keeps. -/
theorem Reaches.keeps {P : State → Prop} (hstep : ∀ s t, P s → step s = .next t → P t) {s t : State}
    (hrun : Reaches s t) (hs : P s) : P t := by
  obtain ⟨n, hn⟩ := hrun
  induction n generalizing s with
  | zero => cases hn; exact hs
  | succ n ih =>
    cases hfirst : step s with
    | next u => exact ih (hstep s u hs hfirst) (runSteps_succ hfirst ▸ hn)
    | fault r => cases r
    | refused r => exact nomatch (runSteps_refused hfirst).symm.trans hn

/-- Every state a run from reset reaches satisfies the invariant (R40). -/
theorem Reaches.inv {s t : State} (hrun : Reaches s t) (hstart : Started s) : Inv t :=
  hrun.keeps everyStepKeepsTheInvariant (invariantHoldsAtReset s hstart)

/-! ### Held frames (R41) -/

/-- Written bytes read as what was written. -/
theorem Memory.map_some_readPrefix (b : BufferId) {m : Memory} {k : Nat} (h : m.Written k) :
    (m.readPrefix b k).map some = (List.range k).map m.find := by
  simp only [Memory.readPrefix, List.map_map]
  refine List.map_congr_left fun a ha => ?_
  obtain ⟨v, hv⟩ := Option.isSome_iff_exists.1 (h a (List.mem_range.1 ha))
  simp [Memory.byte, hv]

/-- Settles O51, from the invariant of the state reached. -/
theorem heldFramesAreWritten : Obligations.HeldFramesAreWritten := by
  intro s t hstart hrun
  obtain ⟨htxi, hrxi, hrxb⟩ := hrun.inv hstart
  exact ⟨htxi.buffer.bound, hrxi.bound, hrxb.buffer.bound, hrxb.cache,
    Memory.map_some_readPrefix .te htxi.buffer.written, Memory.map_some_readPrefix .id hrxi.written,
    Memory.map_some_readPrefix .bd hrxb.buffer.written⟩

/-! ### The sync flag (R38) -/

/-- A scanned byte can set the flag only. -/
theorem scanByte_bdSynced {c : Byte} {s : State} (h : s.bdSynced = true) : (scanByte c s).bdSynced = true := by
  rcases scanByte_cases c s with ⟨hhunt, -⟩ | ⟨-, ⟨-, he⟩ | ⟨v, -, -, he⟩ | ⟨v, -, -, he⟩ | ⟨-, he⟩ | ⟨-, -, he⟩ |
      ⟨-, -, he⟩⟩
  case inl => exact nomatch hhunt.symm.trans h
  all_goals rw [he]; exact h

theorem decMicroStep_bdSynced {s t : State} (hm : decMicroStep s = .next t) (h : s.bdSynced = true) :
    t.bdSynced = true := by
  cases hc : s.bdCache with
  | nil => rw [decMicroStep_read_frame hc hm]; exact h
  | cons c rest =>
    cases (decMicroStep_scan hc).symm.trans hm
    exact scanByte_bdSynced (s := { s with bdCache := rest }) h

/-- Settles O52: of what a step can do, only a reset clears the flag. -/
theorem onlyResetClearsSync : Obligations.OnlyResetClearsSync := by
  intro s t hstep hset hclear
  have kept : t.bdSynced ≠ true := by simp [hclear]
  rcases step_cases hstep with ⟨later, hr, -⟩ | ⟨-, -, resets, ⟨-, hm⟩ | ⟨-, ⟨-, rfl⟩ | ⟨i, rest, -, he⟩ |
      ⟨w, rest, -, rfl⟩⟩⟩
  · rw [hr]; rfl
  · exact absurd (decMicroStep_bdSynced hm hset) kept
  · exact absurd hset kept
  · obtain ⟨-, -, -, -, -, -, -, hsame, -⟩ := commandsWriteTheirOwnUnitOnly i _ t he
    exact absurd (hsame.trans hset) kept
  · exact absurd hset kept

end Sys2Proof.Machine
end

section
/-! PROOFS. The statements on encodings (30_encoding.md R85 to R92): the fields of a word, decoding against encoding, the
opcode table, illegal words, and the fields of a response. -/

namespace Sys2Proof

/-! ### Words and their fields -/

/-- A word is two fields side by side exactly when they stand at their bits. -/
theorem eq_append_iff {m n : Nat} {w : BitVec (m + n)} {a : BitVec m} {b : BitVec n} :
    w = a ++ b ↔ w.extractLsb' n m = a ∧ w.extractLsb' 0 n = b := by
  constructor
  · rintro rfl
    exact ⟨BitVec.extractLsb'_append_eq_left, BitVec.extractLsb'_append_eq_right⟩
  · rintro ⟨rfl, rfl⟩
    exact BitVec.extractLsb'_append_extractLsb'.symm

/-- A word is three fields side by side exactly when they stand at their bits. -/
theorem eq_append_append_iff {m n k : Nat} {w : BitVec (m + (n + k))} {a : BitVec m} {b : BitVec n} {c : BitVec k} :
    w = a ++ (b ++ c) ↔ w.extractLsb' (n + k) m = a ∧ w.extractLsb' k n = b ∧ w.extractLsb' 0 k = c := by
  constructor
  · rintro rfl
    exact ⟨BitVec.extractLsb'_append_eq_left, extract_middle a b c, extract_lowest a b c⟩
  · rintro ⟨rfl, rfl, rfl⟩
    rw [BitVec.extractLsb'_append_extractLsb'_eq_extractLsb' (Nat.zero_add k).symm]
    exact BitVec.extractLsb'_append_extractLsb'.symm

/-- A field's unsigned value, as arithmetic on its word (R88). -/
theorem toNat_field {n : Nat} (w : BitVec n) (start len : Nat) :
    (w.extractLsb' start len).toNat = w.toNat / 2 ^ start % 2 ^ len := by
  rw [BitVec.extractLsb'_toNat, Nat.shiftRight_eq_div_pow]

/-- A field at the bottom of its word. -/
theorem toNat_lowest_field {n : Nat} (w : BitVec n) (len : Nat) :
    (w.extractLsb' 0 len).toNat = w.toNat % 2 ^ len := by
  rw [toNat_field, Nat.pow_zero, Nat.div_one]

/-- OPC is the topmost field, so no bit stands above it. -/
theorem Word.toNat_opc (w : Word) : w.opc.toNat = w.toNat / 2 ^ 28 := by
  rw [Word.opc, toNat_field]
  exact Nat.mod_eq_of_lt (Nat.div_lt_of_lt_mul w.isLt)

/-- Settles O4: what each command's word holds, field by field. -/
theorem operandsAreUnsignedFields : Obligations.OperandsAreUnsignedFields := by
  refine fun w => ⟨fun b h => ?_, fun len h => ?_, fun cap hint h => ?_⟩
  · have hb : w.byteField = b := by
      rcases h with h | h
      · exact (decodeWord_eq_decFeed.1 h).2.2
      · exact (decodeWord_eq_encPut.1 h).2.2
    rw [← hb]
    exact toNat_lowest_field w 8
  · obtain ⟨-, -, rfl⟩ := decodeWord_eq_encBlock.1 h
    exact toNat_lowest_field w 16
  · obtain ⟨-, rfl, rfl⟩ := decodeWord_eq_decBlock.1 h
    exact ⟨toNat_field w 14 14, toNat_lowest_field w 14⟩

/-! ### Decoding against encoding (R85, R86, R89, R91) -/

/-- What a command's word spells: the command without its payload. -/
def Instr.spelled : Instr → CommandWord
  | .decFeed byte => .decFeed byte
  | .encPut byte => .encPut byte
  | .encEnd => .encEnd
  | .encBlock len _ => .encBlock len
  | .decBlock cap hint => .decBlock cap hint

/-- The encoder's word is the one word that spells the command: the fields of R86 leave no bit free. -/
theorem decodeWord_eq_spelled {w : Word} {i : Instr} : decodeWord w = i.spelled ↔ w = encodeWord i := by
  cases i with
  | decFeed byte => exact decodeWord_eq_decFeed.trans (eq_append_append_iff (m := 4) (n := 20) (k := 8)).symm
  | encPut byte => exact decodeWord_eq_encPut.trans (eq_append_append_iff (m := 4) (n := 20) (k := 8)).symm
  | encEnd => exact decodeWord_eq_encEnd.trans (eq_append_iff (m := 4) (n := 28)).symm
  | encBlock len payload => exact decodeWord_eq_encBlock.trans (eq_append_append_iff (m := 4) (n := 12) (k := 16)).symm
  | decBlock cap hint => exact decodeWord_eq_decBlock.trans (eq_append_append_iff (m := 4) (n := 14) (k := 14)).symm

/-- A word and the items behind it are a command exactly when the word spells it and its whole payload stands behind. -/
theorem decodeAt_eq_command {w : Word} {items rest : List PortItem} {i : Instr} :
    decodeAt w items = .command i rest ↔
      decodeWord w = i.spelled ∧ i.wf = true ∧ items = i.payload.map .byte ++ rest := by
  simp only [decodeAt]
  cases hw : decodeWord w with
  | encBlock len =>
    constructor
    · intro h
      cases hp : takePayload len.toNat items with
      | none => simp [hp] at h
      | some taken =>
        simp only [hp, Fetched.command.injEq] at h
        obtain ⟨rfl, rfl⟩ := h
        obtain ⟨hlen, hitems⟩ := takePayload_eq_some hp
        exact ⟨rfl, by simp [Instr.wf, hlen], hitems⟩
    · rintro ⟨hi, hwf, rfl⟩
      cases i with
      | encBlock len' payload =>
        cases hi
        have hlen : payload.length = len.toNat := by simpa [Instr.wf] using hwf
        simp only [Instr.payload, ← hlen, takePayload_bytes]
      | _ => cases hi
  | _ => cases i <;> simp [Instr.spelled, Instr.wf, Instr.payload]

/-- What stands on the port is a command exactly when it is the command's encoding and what stands behind it. -/
theorem decode_eq_command {items rest : List PortItem} {i : Instr} :
    decode items = .command i rest ↔ i.wf = true ∧ items = encode i ++ rest := by
  match items with
  | [] => simp [decode, encode]
  | .byte b :: more => simp [decode, encode]
  | .word w :: more =>
    simp only [decode, decodeAt_eq_command, decodeWord_eq_spelled, encode, List.cons_append, List.cons.injEq,
      PortItem.word.injEq]
    exact and_left_comm

/-- Settles O1: a well-formed command's encoding is what its decoding asks for. -/
theorem decodeOfEncodeIsTheCommand : Obligations.DecodeOfEncodeIsTheCommand :=
  fun _ _ hwf => decode_eq_command.2 ⟨hwf, rfl⟩

/-- Settles O2, the other direction of the same equivalence. -/
theorem decodedCommandIsWhatWasOnThePort : Obligations.DecodedCommandIsWhatWasOnThePort :=
  fun _ _ _ => decode_eq_command.1

/-- Settles O6: each word evaluated. -/
theorem sampleWordsDecode : Obligations.SampleWordsDecode := by
  unfold Obligations.SampleWordsDecode
  decide

/-! ### The opcode table (R87) -/

/-- A mask of ones above `n` zeros compares the bits above `n`. -/
theorem and_mask_eq_iff {m n : Nat} (w : BitVec (m + n)) (x : BitVec m) :
    w &&& (BitVec.allOnes m ++ 0#n) = x ++ 0#n ↔ w.extractLsb' n m = x := by
  simp [eq_append_iff, BitVec.extractLsb'_and, BitVec.extractLsb'_append_eq_left, BitVec.extractLsb'_append_eq_right]

/-- A row's mask above an operand field compares OPC and the reserved bits. -/
theorem and_mask_eq_iff_fields {m n k : Nat} (w : BitVec (m + (n + k))) (x : BitVec m) (y : BitVec n) :
    w &&& (BitVec.allOnes m ++ (BitVec.allOnes n ++ 0#k)) = x ++ (y ++ 0#k) ↔
      w.extractLsb' (n + k) m = x ∧ w.extractLsb' k n = y := by
  simp [eq_append_append_iff, BitVec.extractLsb'_and, BitVec.extractLsb'_append_eq_left, extract_middle, extract_lowest]

/-- A word that selects a row of the table has the row's OPC: every mask covers it. -/
theorem opc_of_selects {r : OpcodeRow} {w : Word} (hr : r ∈ opcodeTable) (h : r.selects w = true) :
    w.opc = r.matchBits.opc := by
  have covered : ∀ q ∈ opcodeTable, q.mask.opc = BitVec.allOnes 4 := by decide
  have hw : w &&& r.mask = r.matchBits := by simpa [OpcodeRow.selects] using h
  calc
    w.opc = w.opc &&& r.mask.opc := by rw [covered r hr, BitVec.and_allOnes]
    _ = (w &&& r.mask).opc := BitVec.extractLsb'_and.symm
    _ = r.matchBits.opc := by rw [hw]

/-- Settles O3: a mask compares OPC and the reserved bits, which are what R91 looks at, and no two rows share an OPC. -/
theorem opcodeTableSelectsTheCommand : Obligations.OpcodeTableSelectsTheCommand := by
  refine ⟨fun w => ⟨?decFeed, ?encPut, ?encEnd, ?encBlock, ?decBlock⟩, ?disjoint⟩
  case decFeed =>
    simp only [decodeWord_eq_decFeed, exists_and_left, exists_eq', and_true]
    exact and_mask_eq_iff_fields (k := 8) w 1#4 0#20
  case encPut =>
    simp only [decodeWord_eq_encPut, exists_and_left, exists_eq', and_true]
    exact and_mask_eq_iff_fields (k := 8) w 2#4 0#20
  case encEnd => exact (and_mask_eq_iff_fields (k := 0) w 3#4 0#28).trans decodeWord_eq_encEnd.symm
  case encBlock =>
    simp only [decodeWord_eq_encBlock, exists_and_left, exists_eq', and_true]
    exact and_mask_eq_iff_fields (k := 16) w 4#4 0#12
  case decBlock =>
    simp only [decodeWord_eq_decBlock, exists_and_left, exists_eq', and_true]
    exact and_mask_eq_iff (n := 28) w 5#4
  case disjoint =>
    have distinct : opcodeTable.Pairwise fun r q => r.matchBits.opc ≠ q.matchBits.opc := by decide
    exact distinct.imp_of_mem fun hr hq hne w ⟨hrw, hqw⟩ =>
      hne ((opc_of_selects hr hrw).symm.trans (opc_of_selects hq hqw))

/-! ### Illegal words (R90) -/

/-- A word is illegal where OPC is none of the five, or reserved bits of its format are not zero. -/
theorem decodeWord_eq_illegal {w : Word} :
    decodeWord w = .illegal ↔
      (w.opc ≠ 1#4 ∧ w.opc ≠ 2#4 ∧ w.opc ≠ 3#4 ∧ w.opc ≠ 4#4 ∧ w.opc ≠ 5#4) ∨
      ((w.opc = 1#4 ∨ w.opc = 2#4) ∧ w.reservedCB ≠ 0) ∨
      (w.opc = 3#4 ∧ w.reservedCN ≠ 0) ∨ (w.opc = 4#4 ∧ w.reservedCL ≠ 0) := by
  simp only [decodeWord]; split_ifs <;> simp_all

/-- An illegal word is taken from the port alone. -/
theorem decode_illegal {w : Word} {rest : List PortItem} (h : decodeWord w = .illegal) :
    decode (.word w :: rest) = .illegal w rest := by
  simp only [decode, decodeAt, h]

namespace Machine

/-- The word of `respond(ILLEGAL_COMMAND, 0, 0)`, as simp writes it. -/
@[simp] theorem responseWord_illegalCommand : responseWord .illegalCommand 0#14 0#14 = 0x60000000#32 := rfl

/-- Settles O5: R90's words by their fields, and the step of an idle machine that rejects one. -/
theorem illegalWordIsAnsweredAndChangesNothing : Obligations.IllegalWordIsAnsweredAndChangesNothing := by
  refine ⟨fun w => ?which, fun s w rest hrun hidle hw hport => ?effect⟩
  case which =>
    have hlt := w.isLt
    have hCB : w.reservedCB.toNat = w.toNat / 2 ^ 8 % 2 ^ 20 := toNat_field w 8 20
    have hCN : w.reservedCN.toNat = w.toNat % 2 ^ 28 := toNat_lowest_field w 28
    have hCL : w.reservedCL.toNat = w.toNat / 2 ^ 16 % 2 ^ 12 := toNat_field w 16 12
    simp only [decodeWord_eq_illegal, ne_eq, BitVec.toNat_eq, Word.toNat_opc, hCB, hCN, hCL, BitVec.ofNat_eq_ofNat,
      BitVec.toNat_ofNat]
    omega
  case effect =>
    rw [step_running hrun, if_neg (by simp [hidle])]
    simp only [acceptCommand, hport, decode_illegal hw, rejectWord]
    simp [State.raise, State.respond, answered, hidle]

/-! ### Response words (R92, R231) -/

/-- Settles O7: the fields of the response word, and each status's code. -/
theorem responseWordFields : Obligations.ResponseWordFields := by
  intro len aux data err
  simp [Response.status, Response.len, Response.aux, Status.code]

end Machine

end Sys2Proof
end

section
/-! PROOFS. The statement on the assembler (30_encoding.md R98, R99): operands in and out of range, the words of the lines
as numbers, and the expansion of the pseudo-instructions. -/

namespace Sys2Proof

/-! ### Command words as numbers (R98) -/

theorem toNat_append_eq_add {m n : Nat} (a : BitVec m) (b : BitVec n) :
    (a ++ b).toNat = a.toNat * 2 ^ n + b.toNat := by
  rw [BitVec.toNat_append, ← Nat.shiftLeft_add_eq_or_of_lt b.isLt, Nat.shiftLeft_eq]

/-- A command's word as a number: OPC at bit 28 and the operands at their bits. -/
def Instr.wordNumber : Instr → Nat
  | .decFeed byte => 0x10000000 + byte.toNat
  | .encPut byte => 0x20000000 + byte.toNat
  | .encEnd => 0x30000000
  | .encBlock len _ => 0x40000000 + len.toNat
  | .decBlock cap hint => 0x50000000 + cap.toNat * 2 ^ 14 + hint.toNat

theorem encodeWord_eq_ofNat (i : Instr) : encodeWord i = BitVec.ofNat 32 i.wordNumber := by
  have h : (encodeWord i).toNat = i.wordNumber := by
    cases i <;> simp only [encodeWord, toNat_append_eq_add, Instr.wordNumber, BitVec.toNat_ofNat] <;> omega
  rw [← h, BitVec.ofNat_toNat, BitVec.setWidth_eq]

namespace Machine

/-! ### Operands in and out of range -/

/-- In range, a byte operand is the number written. -/
theorem asmByte_eq_some {n : Nat} {b : Byte} : asmByte n = some b ↔ n ≤ 0xFF ∧ b.toNat = n := by
  simp only [asmByte, Option.ite_none_right_eq_some, Option.some.injEq, BitVec.toNat_eq, BitVec.toNat_ofNat]
  omega

/-- In range, CAP or HINT is the number written. -/
theorem asmCount_eq_some {n : Nat} {c : Count} : asmCount n = some c ↔ n ≤ 16383 ∧ c.toNat = n := by
  simp only [asmCount, Option.ite_none_right_eq_some, Option.some.injEq, BitVec.toNat_eq, toNat_count]
  omega

theorem asmByte_eq_none {n : Nat} : asmByte n = none ↔ ¬n ≤ 0xFF := by simp [asmByte]

theorem asmCount_eq_none {n : Nat} : asmCount n = none ↔ ¬n ≤ 16383 := by simp [asmCount]

/-- A list of byte operands is in range when each of its numbers is. -/
theorem asmBytes_eq (bs : List Nat) :
    asmBytes bs = if ∀ b ∈ bs, b ≤ 0xFF then some (bs.map (BitVec.ofNat 8)) else none := by
  induction bs with
  | nil => rfl
  | cons b bs ih =>
    simp only [asmBytes, asmByte, ih, List.forall_mem_cons]
    by_cases hb : b ≤ 0xFF
    · by_cases hbs : ∀ b ∈ bs, b ≤ 0xFF
      · rw [if_pos hb, if_pos hbs, if_pos ⟨hb, hbs⟩]; rfl
      · rw [if_pos hb, if_neg hbs, if_neg fun h => hbs h.2]; rfl
    · simp [hb]

/-! ### Lines -/

/-- A program of one line puts its commands' encodings on the port. -/
theorem assemble_singleton (l : AsmLine) : assemble [l] = l.expand.map (List.flatMap encode) := by
  cases h : l.expand <;> simp [assemble, h]

/-- A line of one byte operand, whose command's word is `base` and the byte. -/
theorem assemble_byteLine {l : AsmLine} {command : Byte → Instr} {base n : Nat}
    (hl : l.expand = (asmByte n).map fun b => [command b])
    (hc : ∀ b : Byte, encode (command b) = [.word (BitVec.ofNat 32 (base + b.toNat))]) :
    assemble [l] = if n ≤ 0xFF then some [.word (BitVec.ofNat 32 (base + n))] else none := by
  rw [assemble_singleton, hl]
  cases hn : asmByte n with
  | none => rw [if_neg (asmByte_eq_none.1 hn)]; rfl
  | some b =>
    obtain ⟨hle, hb⟩ := asmByte_eq_some.1 hn
    rw [if_pos hle, ← hb]
    simp [hc]

/-- Lines that each stand for one command of their own number stand for the commands of the bytes, in order, and then the
lines behind them for theirs. -/
theorem assemble_map_append {line : Nat → AsmLine} {command : Byte → Instr}
    (h : ∀ n, (line n).expand = (asmByte n).map fun b => [command b]) (bs : List Nat) (ls : List AsmLine) :
    assemble (bs.map line ++ ls) =
      (asmBytes bs).bind fun p => (assemble ls).map ((p.map command).flatMap encode ++ ·) := by
  induction bs with
  | nil => simp [asmBytes]
  | cons b bs ih =>
    simp only [List.map_cons, List.cons_append, assemble, h, ih, asmBytes]
    cases asmByte b <;> cases asmBytes bs <;> cases assemble ls <;> simp

/-- `enc.block`: LEN in the word, and the bytes behind it. -/
theorem assemble_encBlock (bs : List Nat) :
    assemble [.encBlock bs] =
      if bs.length ≤ 65535 ∧ ∀ b ∈ bs, b ≤ 0xFF then
        some (.word (BitVec.ofNat 32 (0x40000000 + bs.length)) :: bs.map fun b => .byte (BitVec.ofNat 8 b))
      else none := by
  rw [assemble_singleton, AsmLine.expand, asmBytes_eq]
  by_cases hlen : bs.length ≤ 65535
  · by_cases hbs : ∀ b ∈ bs, b ≤ 0xFF
    · have hmod : bs.length % 65536 = bs.length := Nat.mod_eq_of_lt (by omega)
      rw [if_pos hlen, if_pos hbs, if_pos ⟨hlen, hbs⟩]
      simp [encode, encodeWord_eq_ofNat, Instr.wordNumber, Instr.payload, hmod]
    · rw [if_pos hlen, if_neg hbs, if_neg fun h => hbs h.2]; rfl
  · rw [if_neg hlen, if_neg fun h => hlen h.1]; rfl

/-- `dec.block`: CAP and HINT at their bits. -/
theorem assemble_decBlock (cap hint : Nat) :
    assemble [.decBlock cap hint] =
      if cap ≤ 16383 ∧ hint ≤ 16383 then some [.word (BitVec.ofNat 32 (0x50000000 + cap * 2 ^ 14 + hint))]
      else none := by
  rw [assemble_singleton, AsmLine.expand]
  cases hcap : asmCount cap with
  | none => rw [if_neg fun h => asmCount_eq_none.1 hcap h.1]; rfl
  | some c =>
    obtain ⟨hc, rfl⟩ := asmCount_eq_some.1 hcap
    cases hhint : asmCount hint with
    | none => rw [if_neg fun h => asmCount_eq_none.1 hhint h.2]; rfl
    | some k =>
      obtain ⟨hk, rfl⟩ := asmCount_eq_some.1 hhint
      rw [if_pos ⟨hc, hk⟩]
      simp [encode, encodeWord_eq_ofNat, Instr.wordNumber, Instr.payload]

/-- `dec.feeds` is one `dec.feed` for each byte (R99). -/
theorem assemble_decFeeds (bs : List Nat) : assemble [.decFeeds bs] = assemble (bs.map .decFeed) := by
  rw [← List.append_nil (bs.map _), assemble_map_append (fun _ => rfl), assemble_singleton, AsmLine.expand]
  cases asmBytes bs <;> simp [assemble]

/-- `enc.frame` is one `enc.put` for each byte and an `enc.end` (R99). -/
theorem assemble_encFrame (bs : List Nat) :
    assemble [.encFrame bs] = assemble (bs.map AsmLine.encPut ++ [.encEnd]) := by
  rw [assemble_map_append (command := .encPut) (fun _ => rfl), assemble_singleton, assemble_singleton, AsmLine.expand]
  cases h : asmBytes bs <;> simp [AsmLine.expand, h]

/-- Settles O8, line by line. -/
theorem assemblerLinesEncode : Obligations.AssemblerLinesEncode :=
  ⟨fun _ => assemble_byteLine rfl fun b => by rw [encode, encodeWord_eq_ofNat]; rfl,
   fun _ => assemble_byteLine rfl fun b => by rw [encode, encodeWord_eq_ofNat]; rfl,
   rfl, assemble_encBlock, assemble_decBlock, assemble_decFeeds, assemble_encFrame⟩

end Machine

end Sys2Proof
end

section
/-! PROOFS. The statements on the escape core (40_escaper.md R110 to R115): the wire frame of a payload, the escape table,
the table run over an escaped payload, and the two decoders' escape bits. -/

namespace Sys2Proof.Machine

/-! ### The wire frame of a payload (R110, R111) -/

/-- The escaped length, from the counts of the two bytes that escape to two (R111). -/
theorem length_escAll (p : List Byte) : (escAll p).length = p.length + p.count 0xC0 + p.count 0xDB := by
  induction p with
  | nil => rfl
  | cons b p ih =>
    rw [escAll, List.length_append, ih]
    rcases esc_cases b with ⟨rfl, he⟩ | ⟨rfl, he⟩ | ⟨hend, hesc, he⟩ <;> rw [he]
    · simp; omega
    · simp; omega
    · rw [List.count_cons_of_ne hend, List.count_cons_of_ne hesc, List.length_singleton, List.length_cons]
      omega

/-- The escape of a byte is one byte or two. -/
theorem length_esc_le (b : Byte) : (esc b).length ≤ 2 := by
  rcases esc_cases b with ⟨-, he⟩ | ⟨-, he⟩ | ⟨-, -, he⟩ <;> simp [he]

theorem length_escAll_le (p : List Byte) : (escAll p).length ≤ 2 * p.length := by
  induction p with
  | nil => exact Nat.le_refl 0
  | cons b p ih =>
    have hb := length_esc_le b
    rw [escAll, List.length_append, List.length_cons]
    omega

/-- Settles O9, its first clause by the definition of Esc and its bounds by induction over the payload. -/
theorem wireFrameOfAPayload : Obligations.WireFrameOfAPayload := by
  refine ⟨fun b => rfl, fun p => ?_, by decide⟩
  rw [← escAll_eq_flatten]
  have hlen := length_escAll p
  have hframe := length_frame p
  exact ⟨hlen, (List.append_assoc [0xFF, 0xC0] (escAll p) [0xC0]).symm, hframe, by omega, length_escAll_le p, by omega⟩

/-! ### The escape table (R113) -/

/-- Settles O10, row by row of the definition. -/
theorem escapeTransitionTable : Obligations.EscapeTransitionTable :=
  ⟨rfl, rfl, fun _ hend hesc => (if_neg hend).trans (if_neg hesc),
   rfl, rfl, fun _ hend hesc => (if_neg hend).trans (if_neg hesc)⟩

/-- The escape state an action leads to. -/
def Action.nextEsc : Action → EscState
  | .enterEsc => .escaped
  | _ => .normal

/-- The action of a byte determines the next escape state, whatever state the byte meets. -/
theorem escStep_snd_eq (e : EscState) (c : Byte) : (escStep e c).2 = (escStep e c).1.nextEsc := by
  cases e with
  | normal => rcases escStep_normal_cases c with ⟨-, h⟩ | ⟨-, h⟩ | ⟨-, -, h⟩ <;> rw [h] <;> rfl
  | escaped => rcases escStep_escaped_cases c with ⟨-, h⟩ | ⟨-, h⟩ | ⟨-, -, h⟩ <;> rw [h] <;> rfl

/-! ### The table run over an escaped payload (R114) -/

/-- A run over two sequences is a run over the first and then, from where it ended, over the second. -/
theorem escRun_append (e : EscState) (cs ds : List Byte) :
    escRun e (cs ++ ds) =
      ((escRun e cs).1 ++ (escRun (escRun e cs).2 ds).1, (escRun (escRun e cs).2 ds).2) := by
  induction cs generalizing e with
  | nil => rfl
  | cons c cs ih => simp only [List.cons_append, escRun, ih]

/-- The actions of one payload byte's escape. -/
def storeActions (b : Byte) : List Action := if b = 0xC0 ∨ b = 0xDB then [.enterEsc, .store b] else [.store b]

theorem escRun_esc (b : Byte) : escRun .normal (esc b) = (storeActions b, .normal) := by
  rcases esc_cases b with ⟨rfl, he⟩ | ⟨rfl, he⟩ | ⟨hend, hesc, he⟩
  · rw [he]; rfl
  · rw [he]; rfl
  · obtain ⟨-, -, hrow, -⟩ := escapeTransitionTable
    rw [he, storeActions, if_neg (not_or.2 ⟨hend, hesc⟩)]
    simp only [escRun, hrow b hend hesc]

theorem escRun_escAll (p : List Byte) : escRun .normal (escAll p) = (p.flatMap storeActions, .normal) := by
  induction p with
  | nil => rfl
  | cons b p ih => simp only [escAll, escRun_append, escRun_esc, ih, List.flatMap_cons]

theorem end_not_mem_esc (b : Byte) : (0xC0 : Byte) ∉ esc b := by
  rcases esc_cases b with ⟨-, he⟩ | ⟨-, he⟩ | ⟨hend, -, he⟩ <;> rw [he]
  · decide
  · decide
  · simpa using Ne.symm hend

theorem end_not_mem_escAll (p : List Byte) : (0xC0 : Byte) ∉ escAll p := by
  induction p with
  | nil => exact List.not_mem_nil
  | cons b p ih => exact fun hmem => (List.mem_append.1 hmem).elim (end_not_mem_esc b) ih

/-- Each 0xDB is followed by 0xDC or 0xDD. -/
def EscapesComplete (w : List Byte) : Prop :=
  ∀ n : Nat, w[n]? = some (0xDB : Byte) → w[n + 1]? = some (0xDC : Byte) ∨ w[n + 1]? = some (0xDD : Byte)

/-- A sequence stays so when a byte other than 0xDB is put in front. -/
theorem EscapesComplete.cons {b : Byte} {w : List Byte} (h : EscapesComplete w) (hb : b ≠ 0xDB) :
    EscapesComplete (b :: w)
  | 0, h0 => absurd (Option.some.inj h0) hb
  | n + 1, hn => h n hn

/-- A sequence stays so when an escaped byte is put in front. -/
theorem EscapesComplete.esc_append {w : List Byte} (h : EscapesComplete w) (b : Byte) :
    EscapesComplete (esc b ++ w) := by
  rcases esc_cases b with ⟨-, he⟩ | ⟨-, he⟩ | ⟨-, hb, he⟩ <;> rw [he]
  · rintro (- | n) hn
    · exact .inl rfl
    · exact h.cons (by decide : (0xDC : Byte) ≠ 0xDB) n hn
  · rintro (- | n) hn
    · exact .inr rfl
    · exact h.cons (by decide : (0xDD : Byte) ≠ 0xDB) n hn
  · exact h.cons hb

theorem escapesComplete_escAll (p : List Byte) : EscapesComplete (escAll p) := by
  induction p with
  | nil => exact fun n hn => nomatch hn
  | cons b p ih => exact ih.esc_append b

/-- Settles O11, by induction over the payload, an escaped byte at a time. -/
theorem unescapingInvertsEscaping : Obligations.UnescapingInvertsEscaping := by
  intro p
  rw [← escAll_eq_flatten]
  exact ⟨escRun_escAll p, end_not_mem_escAll p, escapesComplete_escAll p⟩

/-! ### RXI's escape state and answers (R115, R191, R197) -/

theorem feedAction_idState (a : Action) (s : State) : (feedAction a s).idState = a.nextEsc := by
  cases a with
  | boundary => rfl
  | enterEsc => rfl
  | store v =>
    simp only [feedAction]
    by_cases h : s.idSize.toNat = s.cfg.bufSize
    · rw [feedStore_full v h]; rfl
    · rw [feedStore_fits v h]; rfl
  | badEscape => rfl

/-- What DEC_FEED adds to the trace holds one response, one that its action gives. -/
theorem feedAction_answers (a : Action) (s : State) :
    ∃ new r, (feedAction a s).trace = s.trace ++ new ∧ new.filterMap TraceItem.response? = [r] ∧ a.answeredBy r := by
  cases a with
  | boundary =>
    simp only [feedAction]
    by_cases h : Config.minFrame ≤ s.idSize.toNat
    · rw [feedBoundary_deliver h]
      exact ⟨_, _, List.append_assoc .., rfl, rfl, rfl, rfl⟩
    · rw [feedBoundary_drop h]
      exact ⟨_, _, rfl, rfl, rfl, rfl, rfl⟩
  | enterEsc => exact ⟨_, _, rfl, rfl, rfl, rfl, rfl⟩
  | store v =>
    simp only [feedAction]
    by_cases h : s.idSize.toNat = s.cfg.bufSize
    · rw [feedStore_full v h]
      exact ⟨_, _, rfl, rfl, rfl, rfl, .inr rfl⟩
    · rw [feedStore_fits v h]
      exact ⟨_, _, rfl, rfl, rfl, rfl, .inl rfl⟩
  | badEscape => exact ⟨_, _, rfl, rfl, rfl, rfl, rfl⟩

/-- The first of the commands is performed, then the others. -/
theorem execAll_cons {i : Instr} {is : List Instr} {s u : State} (h : exec i s = .next u) :
    execAll (i :: is) s = execAll is u := by
  simp only [execAll, h]

/-- Bytes fed one after another take RXI where the table's run goes, with one response for each. -/
theorem execAll_decFeed (s : State) (cs : List Byte) :
    ∃ t new, execAll (cs.map .decFeed) s = .next t ∧ t.trace = s.trace ++ new ∧
      t.idState = (escRun s.idState cs).2 ∧
      List.Forall₂ Action.answeredBy (escRun s.idState cs).1 (new.filterMap TraceItem.response?) := by
  induction cs generalizing s with
  | nil => exact ⟨s, [], rfl, (List.append_nil _).symm, rfl, .nil⟩
  | cons c cs ih =>
    have hfirst : exec (.decFeed c) s = .next (feedAction (escStep s.idState c).1 s) := execDecFeed_eq c s
    have hstate := (feedAction_idState (escStep s.idState c).1 s).trans (escStep_snd_eq s.idState c).symm
    obtain ⟨item, r, htrace, hr, hanswer⟩ := feedAction_answers (escStep s.idState c).1 s
    obtain ⟨t, new, hrest, htrace', hstate', hanswers⟩ := ih (feedAction (escStep s.idState c).1 s)
    rw [hstate] at hstate' hanswers
    refine ⟨t, item ++ new, (execAll_cons hfirst).trans hrest, ?_, hstate', ?_⟩
    · rw [htrace', htrace, List.append_assoc]
    · rw [List.filterMap_append, hr]
      exact .cons hanswer hanswers

/-! ### RXB's escape bit (R115, R160) -/

/-- A byte scanned while synchronised leaves the table's next state in `bd_esc`. -/
theorem scanByte_bdEsc_synced {s : State} (c : Byte) (hsync : s.bdSynced = true) :
    (scanByte c s).bdEsc = (escStep s.bdEsc c).2 := by
  rw [escStep_snd_eq]
  rcases scanByte_cases c s with ⟨hhunt, -⟩ | ⟨-, ⟨ha, he⟩ | ⟨v, ha, -, he⟩ | ⟨v, ha, -, he⟩ | ⟨ha, he⟩ |
      ⟨ha, -, he⟩ | ⟨ha, -, he⟩⟩
  case inl => exact nomatch hhunt.symm.trans hsync
  all_goals rw [he, ha]; rfl

/-- A byte scanned while hunting leaves `bd_esc` as it is (R159). -/
theorem scanByte_bdEsc_hunting {s : State} (c : Byte) (hhunt : s.bdSynced = false) :
    (scanByte c s).bdEsc = s.bdEsc := by
  rcases scanByte_cases c s with ⟨-, he⟩ | ⟨hsync, -⟩
  · rw [he]
  · exact nomatch hhunt.symm.trans hsync

/-- Cached bytes scanned one after another while synchronised take `bd_esc` where the table's run goes. That the command is
still in progress is asked before each scan only, so that the last one may end it. -/
theorem runSteps_scan {s t : State} {cs rest : List Byte} (hrun : s.running) (hsync : s.bdSynced = true)
    (hcache : s.bdCache = cs ++ rest) (hbusy : ∀ k < cs.length, ∀ u, runSteps k s = .next u → u.busy = true)
    (ht : runSteps cs.length s = .next t) : t.bdEsc = (escRun s.bdEsc cs).2 ∧ t.bdCache = rest := by
  induction cs generalizing s with
  | nil => cases ht; exact ⟨rfl, hcache⟩
  | cons c cs ih =>
    have hstep := step_scan hrun (hbusy 0 (Nat.succ_pos _) s rfl) hcache
    have hframe := scanByte_frame c { s with bdCache := cs ++ rest }
    have hesc := scanByte_bdEsc_synced (s := { s with bdCache := cs ++ rest }) c hsync
    have hsync' := scanByte_bdSynced (c := c) (s := { s with bdCache := cs ++ rest }) hsync
    generalize scanByte c { s with bdCache := cs ++ rest } = u at hstep hframe hesc hsync'
    obtain ⟨hlast, hleft⟩ := ih (s := u) (by rw [hframe]; exact hrun) hsync' (by rw [hframe])
      (fun k hk v hv => hbusy (k + 1) (Nat.succ_lt_succ hk) v ((runSteps_succ hstep).trans hv))
      ((runSteps_succ hstep).symm.trans ht)
    exact ⟨by rw [hlast, hesc]; rfl, hleft⟩

/-- A micro-step that scans no byte while synchronised leaves `bd_esc` as it is. -/
theorem decMicroStep_bdEsc {s t : State} (hm : decMicroStep s = .next t)
    (hno : ¬(s.bdSynced = true ∧ s.bdCache ≠ [])) : t.bdEsc = s.bdEsc := by
  cases hc : s.bdCache with
  | nil => rw [decMicroStep_read_frame hc hm]
  | cons c rest =>
    have hhunt : s.bdSynced = false := by simpa [hc] using hno
    cases (decMicroStep_scan hc).symm.trans hm
    exact scanByte_bdEsc_hunting (s := { s with bdCache := rest }) c hhunt

/-- `bd_esc` is held by every step but a scan while synchronised or a reset. -/
theorem step_bdEsc {s t : State} (hstep : step s = .next t) (hreset : s.resetIn.head? ≠ some 0)
    (hno : ¬(s.busy = true ∧ s.bdSynced = true ∧ s.bdCache ≠ [])) : t.bdEsc = s.bdEsc := by
  rcases step_cases hstep with ⟨later, hr, -⟩ | ⟨-, -, resets, ⟨hbusy, hm⟩ | ⟨-, ⟨-, rfl⟩ | ⟨i, rest, -, he⟩ |
      ⟨w, rest, -, rfl⟩⟩⟩
  · exact absurd (by rw [hr]; rfl) hreset
  · exact decMicroStep_bdEsc (s := { s with resetIn := resets }) hm fun hscan => hno ⟨hbusy, hscan⟩
  · rfl
  · obtain ⟨-, -, -, -, -, -, -, -, hsame, -⟩ := commandsWriteTheirOwnUnitOnly i _ t he
    exact hsame
  · rfl

/-- Settles O12: RXI by induction over the bytes fed, RXB by induction over the bytes scanned and by cases on what a step
does. -/
theorem decodersFollowTheEscapeTable : Obligations.DecodersFollowTheEscapeTable :=
  ⟨execAll_decFeed, fun _ _ _ _ hrun _ hsync hcache hbusy ht => runSteps_scan hrun hsync hcache hbusy ht,
   fun _ _ => step_bdEsc⟩

end Sys2Proof.Machine
end

section
/-! PROOFS. The statements on the block encoder (41_block_encoder.md R131 to R136), and the statuses each command is answered
with (R136, R197, R217, R231). -/

namespace Sys2Proof.Machine

/-! ### ENC_BLOCK on each side of R132's bound -/

/-- The length of the wire frame, from the counts of the two bytes that escape to two (R111). -/
theorem length_frame_eq_counts (p : List Byte) : (frame p).length = 3 + p.length + p.count 0xC0 + p.count 0xDB := by
  rw [length_frame, length_escAll]
  omega

/-- A frame longer than BUF_SIZE is answered BUFFER_OVERFLOW, and nothing is asked of the channel (R132). -/
theorem execEncBlock_over {p : List Byte} {s : State} (h : s.cfg.bufSize < (frame p).length) :
    execEncBlock p s = .next (s.raise .bufferOverflow) := if_pos h

/-- The answer listed first is the one reported, where it is within the channel's duty (R133, R134). -/
theorem execEncBlock_answered {p : List Byte} {s : State} {a : WriteAnswer} {later : List WriteAnswer}
    (hfit : (frame p).length ≤ s.cfg.bufSize) (hw : s.writeAnswers = a :: later) (hduty : a.n ≤ (frame p).length) :
    execEncBlock p s = .next (encBlockEnd p a.n a.err { s with writeAnswers := later }) := by
  rw [execEncBlock, if_neg (Nat.not_lt.2 hfit), State.chanWrite, hw]
  exact if_pos hduty

/-- An answered ENC_BLOCK adds its write, the answer, and a response with the answer's status. -/
theorem encBlockEnd_status (p : List Byte) (n : Nat) (err : Option ChanErr) (s : State) :
    ∃ r, (encBlockEnd p n err s).trace = s.trace ++ [.chanWrite (frame p), .writeAnswer n err, .response r] ∧
      r.status = (writeStatus err).code :=
  ⟨⟨responseWord (writeStatus err) (count n) 0, [], err⟩, by simp [encBlockEnd], responseWord_status ..⟩

/-- An ENC_BLOCK that completes with a frame that fits has been answered. -/
theorem execEncBlock_fits {p : List Byte} {s t : State} (hfit : (frame p).length ≤ s.cfg.bufSize)
    (h : execEncBlock p s = .next t) :
    ∃ n err r, t.trace = s.trace ++ [.chanWrite (frame p), .writeAnswer n err, .response r] ∧
      r.status = (writeStatus err).code := by
  rcases execEncBlock_cases p s with
    ⟨hover, -⟩ | ⟨-, ⟨-, n, err, -, he⟩ | ⟨a, later, -, ⟨-, he⟩ | ⟨-, he⟩⟩⟩
  · exact absurd hover (Nat.not_lt.2 hfit)
  · cases he.symm.trans h
    exact ⟨n, err, encBlockEnd_status p n err { s with freeDraws := s.freeDraws + 1 }⟩
  · cases he.symm.trans h
  · cases he.symm.trans h
    exact ⟨a.n, a.err, encBlockEnd_status p a.n a.err { s with writeAnswers := later }⟩

theorem writeStatus_cases (err : Option ChanErr) : writeStatus err = .ok ∨ writeStatus err = .channelError := by
  cases err with
  | none => exact .inl rfl
  | some e => exact .inr rfl

theorem writeStatus_code_ne_overflow (err : Option ChanErr) : (writeStatus err).code ≠ 0x3 := by
  rcases writeStatus_cases err with h | h <;> rw [h] <;> decide

/-- Settles O13: the bound in counts is the bound on the frame's length, and each side of it has its own lemma. -/
theorem encBlockOverflowsExactlyPastBufSize : Obligations.EncBlockOverflowsExactlyPastBufSize := by
  intro s len p
  rw [← length_frame_eq_counts]
  refine ⟨fun hover => execEncBlock_over hover, fun hfit t h => ?_⟩
  obtain ⟨n, err, r, htrace, hstatus⟩ := execEncBlock_fits hfit h
  exact ⟨n, err, r, htrace, hstatus ▸ writeStatus_code_ne_overflow err⟩

/-- Settles O14: the answer listed is reported by the end of an answered ENC_BLOCK. -/
theorem encBlockWritesTheFrameOnce : Obligations.EncBlockWritesTheFrameOnce := by
  intro s len p a later hfit hw hduty
  exact (execEncBlock_answered hfit hw hduty).trans (by rw [encBlockEnd_eq])

/-! ### The statuses each command is answered with (R136, R197, R217, R231) -/

/-- From `s` to `t` the trace grows by one response, its status one of these codes, among items that are none. -/
def AnsweredWith (codes : List (BitVec 4)) (s t : State) : Prop :=
  ∃ new r, t.trace = s.trace ++ new ∧ new.filterMap TraceItem.response? = [r] ∧ r.status ∈ codes

/-- A response in the trace stood there before, or has one of the codes. -/
theorem AnsweredWith.status_mem {codes : List (BitVec 4)} {s t : State} {r : Response} (h : AnsweredWith codes s t)
    (hr : .response r ∈ t.trace) : .response r ∈ s.trace ∨ r.status ∈ codes := by
  obtain ⟨new, r', htrace, hnew, hstatus⟩ := h
  refine (List.mem_append.1 (htrace ▸ hr)).imp_right fun hmem => ?_
  have hr' : r ∈ new.filterMap TraceItem.response? := List.mem_filterMap.2 ⟨_, hmem, rfl⟩
  rw [hnew, List.mem_singleton] at hr'
  exact hr' ▸ hstatus

/-- What the table's actions are answered with (R197). -/
theorem Action.answeredBy_status {a : Action} {r : Response} (h : a.answeredBy r) : r.status ∈ [0x0, 0x3, 0x4] := by
  obtain ⟨-, -, hword⟩ := h
  rw [Response.status]
  cases a with
  | boundary => rw [show r.word = 0x00000000 from hword]; decide
  | enterEsc => rw [show r.word = 0x00000000 from hword]; decide
  | store v => rcases hword with hword | hword <;> rw [hword] <;> decide
  | badEscape => rw [show r.word = 0x40000000 from hword]; decide

theorem feedAction_statuses (a : Action) (s : State) : AnsweredWith [0x0, 0x3, 0x4] s (feedAction a s) := by
  obtain ⟨new, r, htrace, hnew, hr⟩ := feedAction_answers a s
  exact ⟨new, r, htrace, hnew, a.answeredBy_status hr⟩

theorem teDiscard_statuses (s : State) : AnsweredWith [0x0, 0x3] s (teDiscard s) := ⟨_, _, rfl, rfl, by decide⟩

theorem putAction_statuses (v : List Byte) (s : State) : AnsweredWith [0x0, 0x3] s (putAction v s) := by
  simp only [putAction]
  cases s.teOverflows v with
  | true => exact teDiscard_statuses s
  | false => exact ⟨_, _, rfl, rfl, by decide⟩

theorem endAction_statuses (v : List Byte) (s : State) : AnsweredWith [0x0, 0x3] s (endAction v s) := by
  simp only [endAction]
  cases s.teOverflows v with
  | true => exact teDiscard_statuses s
  | false => exact ⟨_, _, List.append_assoc .., rfl, by decide⟩

theorem execEncBlock_statuses {p : List Byte} {s t : State} (h : execEncBlock p s = .next t) :
    AnsweredWith [0x0, 0x3, 0x5] s t := by
  by_cases hover : s.cfg.bufSize < (frame p).length
  · cases (execEncBlock_over hover).symm.trans h
    exact ⟨_, _, rfl, rfl, by decide⟩
  · obtain ⟨n, err, r, htrace, hstatus⟩ := execEncBlock_fits (Nat.not_lt.1 hover) h
    refine ⟨_, r, htrace, rfl, ?_⟩
    rcases writeStatus_cases err with hw | hw <;> rw [hstatus, hw] <;> decide

/-- Settles O57: each command by the codes of its one response; DEC_BLOCK's entry leaves the trace as it is. -/
theorem statusesOfEachCommand : Obligations.StatusesOfEachCommand := by
  intro i s t r h hr
  cases i with
  | decFeed c =>
    cases (execDecFeed_eq c s).symm.trans h
    simpa using (feedAction_statuses _ s).status_mem hr
  | encPut b =>
    cases (execEncPut_eq b s).symm.trans h
    simpa using (putAction_statuses _ s).status_mem hr
  | encEnd =>
    cases (execEncEnd_eq s).symm.trans h
    simpa using (endAction_statuses _ s).status_mem hr
  | encBlock len p => simpa using (execEncBlock_statuses h).status_mem hr
  | decBlock cap hint =>
    cases h
    exact .inl hr

end Sys2Proof.Machine
end

section
/-! PROOFS. The statements on DEC_BLOCK's entry and on one micro-step (42_stream_reassembler.md R152 to R167): a scanned
byte, seen as what it does to RXB's flags and frame, and a read. -/

namespace Sys2Proof.Machine

/-! ### DEC_BLOCK's entry, and what a micro-step writes (R152, R167) -/

theorem toNat_clampOperand (cfg : Config) (v : Count) : (clampOperand cfg v).toNat = min v.toNat cfg.bufSize :=
  toNat_count_of_le cfg (Nat.min_le_right ..)

/-- Settles O27. -/
theorem decBlockEntryClampsItsOperands : Obligations.DecBlockEntryClampsItsOperands :=
  fun s cap hint => ⟨_, rfl, rfl, toNat_clampOperand s.cfg cap, toNat_clampOperand s.cfg hint⟩

/-- Settles O54, by the frame of a micro-step. -/
theorem decBlockWritesRxbOnly : Obligations.DecBlockWritesRxbOnly :=
  fun _ _ hrun hbusy h => decMicroStep_frame ((step_busy hrun hbusy).symm.trans h)

/-! ### A scanned byte (R159 to R165) -/

/-- What a byte scanned while synchronised does for an action of the escape table (R160). -/
def scanAction : Action → State → State
  | .boundary, s => scanBoundary { s with bdEsc := .normal }
  | .enterEsc, s => { s with bdEsc := .escaped }
  | .store v, s => scanStore v { s with bdEsc := .normal }
  | .badEscape, s => scanBadEscape { s with bdEsc := .normal }

theorem scanByte_hunting {s : State} (c : Byte) (hhunt : s.bdSynced = false) : scanByte c s = huntByte c s :=
  if_neg (by simp [hhunt])

theorem scanByte_synced {s : State} (c : Byte) (hsync : s.bdSynced = true) :
    scanByte c s = scanAction (escStep s.bdEsc c).1 s := by
  rw [scanByte, if_pos hsync, syncedByte, escStep_snd_eq]
  cases (escStep s.bdEsc c).1 <;> rfl

theorem scanAction_store_full {s : State} (v : Byte) (h : s.opCap.toNat ≤ s.bdSize.toNat) :
    scanAction (.store v) s =
      State.respond .bufferOverflow 0 s.cacheCount [] none { s with bdSize := 0, bdEsc := .normal } := if_pos h

theorem scanAction_store_fits {s : State} (v : Byte) (h : s.bdSize.toNat < s.opCap.toNat) :
    scanAction (.store v) s = State.bdAppend v { s with bdEsc := .normal } := if_neg (Nat.not_le.2 h)

theorem scanAction_boundary_over {s : State} (h : s.opCap.toNat < s.bdSize.toNat) :
    scanAction .boundary s =
      State.respond .bufferOverflow 0 s.cacheCount [] none { s with bdSize := 0, bdEsc := .normal } := if_pos h

theorem scanAction_boundary_fits {s : State} (h : s.bdSize.toNat ≤ s.opCap.toNat) :
    scanAction .boundary s =
      State.respond .frame s.bdSize s.cacheCount s.bdFrame none { s with bdSize := 0, bdEsc := .normal } :=
  if_neg (Nat.not_lt.2 h)

/-- Below a bound of 14 bits the frame's size grows by one: the count does not wrap. -/
theorem State.toNat_bdSize_bdAppend {s : State} (v : Byte) {n : Count} (h : s.bdSize.toNat < n.toNat) :
    (s.bdAppend v).bdSize.toNat = s.bdSize.toNat + 1 := by
  have hn : n.toNat < 16384 := n.isLt
  rw [State.bdAppend_bdSize, toNat_count, Nat.mod_eq_of_lt (by omega)]

/-- The bytes that stand for a payload byte `v` are those the table stores as `v` (R113). -/
theorem escStep_store {e : EscState} {c v : Byte}
    (h : e = .normal ∧ c ≠ 0xC0 ∧ c ≠ 0xDB ∧ v = c ∨ e = .escaped ∧ c = 0xDC ∧ v = 0xC0 ∨
      e = .escaped ∧ c = 0xDD ∧ v = 0xDB) : (escStep e c).1 = .store v := by
  obtain ⟨-, -, hplain, -⟩ := escapeTransitionTable
  rcases h with ⟨rfl, hend, hesc, rfl⟩ | ⟨rfl, rfl, rfl⟩ | ⟨rfl, rfl, rfl⟩
  · rw [hplain v hend hesc]
  · rfl
  · rfl

/-- A micro-step that scans a byte while synchronised performs the byte's action (R160). -/
theorem step_scanAction {s : State} {c : Byte} {rest : List Byte} {a : Action} (hrun : s.running) (hbusy : s.busy = true)
    (hsync : s.bdSynced = true) (hcache : s.bdCache = c :: rest) (ha : (escStep s.bdEsc c).1 = a) :
    step s = .next (scanAction a { s with bdCache := rest }) := by
  rw [step_scan hrun hbusy hcache, ← ha]
  exact congrArg Host.Outcome.next (scanByte_synced (s := { s with bdCache := rest }) c hsync)

/-- Settles O29. -/
theorem huntingDiscardsUpToTheFirstEnd : Obligations.HuntingDiscardsUpToTheFirstEnd := by
  intro s c rest hrun hbusy hhunt hcache
  rw [step_scan hrun hbusy hcache, scanByte_hunting (s := { s with bdCache := rest }) c hhunt]
  rfl

/-- Settles O30: ESC by the table's action, a payload byte by an append that fits. -/
theorem scanStoresBelowCapacity : Obligations.ScanStoresBelowCapacity := by
  intro s c rest hrun hbusy hsync hcache
  refine ⟨fun hnormal hc => ?esc, fun v hv hfit => ?store⟩
  case esc => exact step_scanAction hrun hbusy hsync hcache (a := .enterEsc) (by rw [hnormal, hc]; rfl)
  case store =>
    have hstep := step_scanAction hrun hbusy hsync hcache (escStep_store hv)
    rw [scanAction_store_fits (s := { s with bdCache := rest }) v hfit] at hstep
    refine ⟨_, hstep, rfl, State.toNat_bdSize_bdAppend v hfit, State.bdFrame_bdAppend v hfit, fun a ha => ?_⟩
    exact Memory.byte_append_outside .bd s.bdBuf s.bdSize.toNat [v] (by rw [List.length_singleton]; omega)

/-- Settles O31: at the capacity a store discards the frame. -/
theorem scanOverflowsAtCapacity : Obligations.ScanOverflowsAtCapacity := by
  intro s c rest hrun hbusy hsync hcache hbyte hfull
  obtain ⟨v, hv⟩ : ∃ v, (escStep s.bdEsc c).1 = .store v := by
    rcases hbyte with ⟨he, hend, hesc⟩ | ⟨he, hc | hc⟩
    · exact ⟨c, escStep_store (.inl ⟨he, hend, hesc, rfl⟩)⟩
    · exact ⟨0xC0, escStep_store (.inr (.inl ⟨he, hc, rfl⟩))⟩
    · exact ⟨0xDB, escStep_store (.inr (.inr ⟨he, hc, rfl⟩))⟩
  rw [step_scanAction hrun hbusy hsync hcache hv, scanAction_store_full (s := { s with bdCache := rest }) v hfull]
  rfl

/-- Settles O32. -/
theorem scanBadEscapeEndsTheCommand : Obligations.ScanBadEscapeEndsTheCommand := by
  intro s c rest hrun hbusy hsync hcache he hc hd
  obtain ⟨-, -, -, -, -, hbad⟩ := escapeTransitionTable
  exact step_scanAction hrun hbusy hsync hcache (a := .badEscape) (by rw [he, hbad c hc hd])

/-- Settles O33: the two sides of the capacity test at a boundary. -/
theorem scanEndReturnsTheFrame : Obligations.ScanEndReturnsTheFrame := by
  intro s rest hrun hbusy hsync hcache he
  have hstep := step_scanAction hrun hbusy hsync hcache (a := .boundary) (by rw [he]; rfl)
  refine ⟨fun hfit => ?_, fun hover => ?_⟩
  · rw [hstep, scanAction_boundary_fits (s := { s with bdCache := rest }) hfit, he]
    rfl
  · rw [hstep, scanAction_boundary_over (s := { s with bdCache := rest }) hover, he]
    rfl

/-! ### What RXB shows of a scanned byte -/

/-- RXB's flags and the bytes of its partial frame: all that the scan of a byte depends on (R35, R42). -/
structure RxbView where
  synced : Bool
  esc    : EscState
  held   : List Byte

def State.rxb (s : State) : RxbView := ⟨s.bdSynced, s.bdEsc, s.bdFrame⟩

/-- What a scanned byte can end a DEC_BLOCK with (R162 to R165). -/
inductive Verdict where
  | frame (p : List Byte)
  | overflow
  | badEscape

def Verdict.status : Verdict → Status
  | .frame _ => .frame
  | .overflow => .bufferOverflow
  | .badEscape => .unknownEscapedByte

def Verdict.data : Verdict → List Byte
  | .frame p => p
  | _ => []

/-- The response that gives the verdict, with this AUX (R166). -/
def Verdict.response (v : Verdict) (aux : Count) : Response :=
  ⟨responseWord v.status (count v.data.length) aux, v.data, none⟩

/-- The response to a scanned byte, where it ends the command. -/
def Verdict.items (aux : Count) (o : Option Verdict) : List TraceItem :=
  (o.map fun v => .response (v.response aux)).toList

/-- An action performed on RXB's view under a capacity (R161 to R165). -/
def RxbView.act (cap : Nat) : Action → RxbView → RxbView × Option Verdict
  | .boundary, r =>
    ({ r with esc := .normal, held := [] }, some (if cap < r.held.length then .overflow else .frame r.held))
  | .enterEsc, r => ({ r with esc := .escaped }, none)
  | .store v, r =>
    if cap ≤ r.held.length then ({ r with esc := .normal, held := [] }, some .overflow)
    else ({ r with esc := .normal, held := r.held ++ [v] }, none)
  | .badEscape, r => ({ r with esc := .normal, held := [] }, some .badEscape)

/-- A byte scanned on RXB's view under a capacity (R157 to R165). -/
def RxbView.scan (cap : Nat) (c : Byte) (r : RxbView) : RxbView × Option Verdict :=
  if r.synced then r.act cap (escStep r.esc c).1 else ({ r with synced := syncAfter c }, none)

@[simp] theorem State.length_held (s : State) : s.rxb.held.length = s.bdSize.toNat := State.length_bdFrame s

/-- What an action does to the machine is what it does to RXB's view; AUX is the length of the cache. -/
theorem scanAction_rxb (a : Action) (s : State) :
    (scanAction a s).rxb = (s.rxb.act s.opCap.toNat a).1 ∧
    (scanAction a s).busy = (s.busy && (s.rxb.act s.opCap.toNat a).2.isNone) ∧
    (scanAction a s).trace = s.trace ++ Verdict.items s.cacheCount (s.rxb.act s.opCap.toNat a).2 := by
  cases a with
  | boundary =>
    by_cases h : s.opCap.toNat < s.bdSize.toNat
    · rw [scanAction_boundary_over h]
      simp [RxbView.act, h, State.rxb, State.bdFrame, Verdict.items, Verdict.response, Verdict.status, Verdict.data]
    · rw [scanAction_boundary_fits (Nat.not_lt.1 h)]
      simp [RxbView.act, h, State.rxb, State.bdFrame, Verdict.items, Verdict.response, Verdict.status, Verdict.data]
  | enterEsc => simp [scanAction, RxbView.act, State.rxb, State.bdFrame, Verdict.items]
  | store v =>
    by_cases h : s.opCap.toNat ≤ s.bdSize.toNat
    · rw [scanAction_store_full v h]
      simp [RxbView.act, h, State.rxb, State.bdFrame, Verdict.items, Verdict.response, Verdict.status, Verdict.data]
    · rw [scanAction_store_fits v (Nat.not_le.1 h)]
      have hframe := State.bdFrame_bdAppend (s := { s with bdEsc := .normal }) v (Nat.not_le.1 h)
      simp [RxbView.act, h, State.rxb, hframe, Verdict.items]
      rfl
  | badEscape =>
    simp [scanAction, scanBadEscape, RxbView.act, State.rxb, State.bdFrame, Verdict.items, Verdict.response,
      Verdict.status, Verdict.data, State.cacheCount]

/-- A byte scanned by the machine is a byte scanned on RXB's view. -/
theorem scanByte_rxb (c : Byte) (s : State) :
    (scanByte c s).rxb = (s.rxb.scan s.opCap.toNat c).1 ∧
    (scanByte c s).busy = (s.busy && (s.rxb.scan s.opCap.toNat c).2.isNone) ∧
    (scanByte c s).trace = s.trace ++ Verdict.items s.cacheCount (s.rxb.scan s.opCap.toNat c).2 := by
  cases hs : s.bdSynced with
  | false =>
    have hscan : s.rxb.scan s.opCap.toNat c = ({ s.rxb with synced := syncAfter c }, none) :=
      if_neg (by simp [State.rxb, hs])
    rw [scanByte_hunting c hs, hscan]
    simp [huntByte, State.rxb, State.bdFrame, Verdict.items]
  | true =>
    have hscan : s.rxb.scan s.opCap.toNat c = s.rxb.act s.opCap.toNat (escStep s.bdEsc c).1 := if_pos hs
    rw [scanByte_synced c hs, hscan]
    exact scanAction_rxb _ s

/-- The same of the first cached byte, in terms of the state it is cached in. -/
theorem scanByte_cached_rxb (c : Byte) (rest : List Byte) (s : State) :
    (scanByte c { s with bdCache := rest }).rxb = (s.rxb.scan s.opCap.toNat c).1 ∧
    (scanByte c { s with bdCache := rest }).busy = (s.busy && (s.rxb.scan s.opCap.toNat c).2.isNone) ∧
    (scanByte c { s with bdCache := rest }).trace =
      s.trace ++ Verdict.items (count rest.length) (s.rxb.scan s.opCap.toNat c).2 :=
  scanByte_rxb c { s with bdCache := rest }

@[simp] theorem scanByte_bdCache (c : Byte) (s : State) : (scanByte c s).bdCache = s.bdCache := by rw [scanByte_frame]

@[simp] theorem scanByte_readAnswers (c : Byte) (s : State) : (scanByte c s).readAnswers = s.readAnswers := by
  rw [scanByte_frame]

/-- A frame is returned within the capacity only (R164, R165). -/
theorem RxbView.scan_frame {r : RxbView} {cap : Nat} {c : Byte} {p : List Byte}
    (h : (r.scan cap c).2 = some (.frame p)) : p.length ≤ cap := by
  cases hs : r.synced with
  | false => simp [RxbView.scan, hs] at h
  | true =>
    simp only [RxbView.scan, hs, if_true] at h
    cases ha : (escStep r.esc c).1 with
    | boundary =>
      by_cases hover : cap < r.held.length
      · simp [ha, RxbView.act, hover] at h
      · simp only [ha, RxbView.act, if_neg hover, Option.some.injEq, Verdict.frame.injEq] at h
        exact h ▸ Nat.not_lt.1 hover
    | enterEsc => simp [ha, RxbView.act] at h
    | store v => simp only [ha, RxbView.act] at h; split at h <;> simp at h
    | badEscape => simp [ha, RxbView.act] at h

/-! ### A read that is answered (R153 to R156) -/

/-- The micro-step of a read that is answered within the hint: its three outcomes. -/
theorem decMicroStep_answered {s : State} {a : ReadAnswer} (hcache : s.bdCache = []) (hpending : s.readPending = false)
    (hanswer : (s.nextRead s.opHint).1 = some a) (hduty : a.chunk.length ≤ s.opHint.toNat) :
    (∃ e, a.err = some e ∧ decMicroStep s = .next
      (State.respond .channelError s.bdSize (count a.chunk.length) s.bdFrame (some e)
        { s.afterRead a with bdCache := a.chunk })) ∨
    (a.err = none ∧ a.chunk = [] ∧ decMicroStep s = .next (State.respond .noData 0 0 [] none (s.afterRead a))) ∨
    (a.err = none ∧ a.chunk ≠ [] ∧ decMicroStep s = .next { s.afterRead a with bdCache := a.chunk }) := by
  rcases decMicroStep_cases s with ⟨c, rest, hcons, -⟩ | ⟨-, ⟨hp, -⟩ | ⟨-, ⟨hnone, -⟩ | ⟨b, hb, hread⟩⟩⟩
  · exact nomatch hcache.symm.trans hcons
  · exact nomatch hpending.symm.trans hp
  · exact nomatch hanswer.symm.trans hnone
  · cases hanswer.symm.trans hb
    rcases hread with ⟨hover, -⟩ | ⟨-, hread⟩
    · exact absurd hduty (Nat.not_le.2 hover)
    · exact hread

/-- With a byte cached, a micro-step takes it, makes no read and takes no answer. -/
theorem decMicroStep_cached {s t : State} (hcache : s.bdCache ≠ []) (h : decMicroStep s = .next t) :
    t.readAnswers = s.readAnswers ∧ t.bdCache = s.bdCache.tail ∧
    ∃ new, t.trace = s.trace ++ new ∧ ∀ x ∈ new, x.isRead = false := by
  obtain ⟨c, rest, hc⟩ := List.exists_cons_of_ne_nil hcache
  cases (decMicroStep_scan hc).symm.trans h
  obtain ⟨-, -, htrace⟩ := scanByte_cached_rxb c rest s
  refine ⟨by simp, by simp [hc], _, htrace, fun x hx => ?_⟩
  simp only [Verdict.items, Option.mem_toList, Option.map_eq_some_iff] at hx
  obtain ⟨v, -, rfl⟩ := hx
  rfl

/-- Settles O28: a read by its three outcomes, a cached byte by its scan. -/
theorem decBlockReadsOnlyWithAnEmptyCache : Obligations.DecBlockReadsOnlyWithAnEmptyCache := by
  refine ⟨fun s u a hrun hbusy hcache hpending hnext hduty => ?read, fun s t hrun hbusy hcache h => ?cached⟩
  case cached => exact decMicroStep_cached hcache ((step_busy hrun hbusy).symm.trans h)
  case read =>
    have hanswer : (s.nextRead s.opHint).1 = some a := by rw [hnext]
    have hu : (s.nextRead s.opHint).2 = u := by rw [hnext]
    have hframe : u = { s with readAnswers := u.readAnswers, freeDraws := u.freeDraws } := by
      rw [← hu]; exact State.nextRead_snd s.opHint s
    have hafter : s.afterRead a =
        { u with trace := s.trace ++ [.chanRead s.opHint, .readAnswer a.chunk a.err] } := by
      rw [State.afterRead, hu, hframe]; simp [State.log]
    refine ⟨hframe, fun later hr => ?_, ?_⟩
    · rw [← hu, State.nextRead_listed s.opHint hr]
    rw [step_busy hrun hbusy]
    rcases decMicroStep_answered hcache hpending hanswer hduty with ⟨e, he, hm⟩ | ⟨he, hc, hm⟩ | ⟨he, hc, hm⟩
    · have hsome : a.err ≠ none := by simp [he]
      refine ⟨fun _ _ => ?_, fun hnone => absurd hnone hsome, fun hnone => absurd hnone hsome⟩
      rw [hm, hafter, he]
      simp [State.respond, answered, responseWord, Status.code]
    · refine ⟨fun _ he' => (nomatch he.symm.trans he'), fun _ _ => ?_, fun _ hne => absurd hc hne⟩
      rw [hm, hafter, he, hc]
      simp [State.respond, answered, responseWord, Status.code]
    · refine ⟨fun _ he' => (nomatch he.symm.trans he'), fun _ hnil => absurd hnil hc, fun _ _ => ?_⟩
      rw [hm, hafter, he]

/-! ### What a micro-step answers (R165, R166, R168) -/

/-- The response a micro-step of `s` ends the command with: a status of DEC_BLOCK, and a FRAME with its length, within the
capacity. -/
structure MicroResponse (s t : State) (r : Response) : Prop where
  aux    : r.aux = t.cacheCount
  status : 1 ≤ r.status.toNat ∧ r.status.toNat ≤ 5
  frame  : r.status = 0x1 → r.len = count r.data.length ∧ r.data.length ≤ s.opCap.toNat

/-- A response of another status than FRAME is one. -/
theorem MicroResponse.of_status {s t : State} (st : Status) (len : Count) (data : List Byte) (err : Option ChanErr)
    (hst : st = .noData ∨ st = .bufferOverflow ∨ st = .unknownEscapedByte ∨ st = .channelError) :
    MicroResponse s t ⟨responseWord st len t.cacheCount, data, err⟩ := by
  rcases hst with rfl | rfl | rfl | rfl <;>
    exact ⟨responseWord_aux .., by simp [Response.status, Status.code], by simp [Response.status, Status.code]⟩

/-- A verdict's response is one. -/
theorem MicroResponse.of_verdict {s t : State} {v : Verdict}
    (h : ∀ p, v = .frame p → p.length ≤ s.opCap.toNat) : MicroResponse s t (v.response t.cacheCount) := by
  cases v with
  | frame p =>
    exact ⟨responseWord_aux .., by simp [Response.status, Verdict.response, Verdict.status, Status.code],
      fun _ => ⟨responseWord_len .., h p rfl⟩⟩
  | overflow => exact .of_status _ _ _ _ (.inr (.inl rfl))
  | badEscape => exact .of_status _ _ _ _ (.inr (.inr (.inl rfl)))

/-- A micro-step leaves the command in progress with no response, or ends it with one, behind reads only. -/
theorem decMicroStep_answers {s t : State} (hbusy : s.busy = true) (h : decMicroStep s = .next t) :
    ∃ reads, (∀ x ∈ reads, x.isRead = true) ∧
      (t.busy = true ∧ t.trace = s.trace ++ reads ∨
       t.busy = false ∧ ∃ r, t.trace = s.trace ++ reads ++ [.response r] ∧ MicroResponse s t r) := by
  rcases decMicroStep_cases s with ⟨c, rest, hc, he⟩ | ⟨hc, ⟨-, he⟩ | ⟨-, ⟨-, he⟩ | ⟨a, -, ⟨-, he⟩ |
      ⟨-, ⟨e, -, he⟩ | ⟨-, -, he⟩ | ⟨-, -, he⟩⟩⟩⟩⟩ <;> cases he.symm.trans h
  case inl =>
    obtain ⟨-, hb, htrace⟩ := scanByte_cached_rxb c rest s
    cases hv : (s.rxb.scan s.opCap.toNat c).2 with
    | none =>
      rw [hv] at hb htrace
      exact ⟨[], by simp, .inl ⟨by simpa [hbusy] using hb, htrace⟩⟩
    | some v =>
      rw [hv] at hb htrace
      refine ⟨[], by simp, .inr ⟨by simpa using hb, _, by simpa [Verdict.items] using htrace, ?_⟩⟩
      have hresponse := MicroResponse.of_verdict (s := s) (t := scanByte c { s with bdCache := rest }) (v := v)
        fun p hp => RxbView.scan_frame (by rw [hv, hp])
      simpa [State.cacheCount] using hresponse
  · exact ⟨[], by simp, .inl ⟨hbusy, by simp⟩⟩
  · exact ⟨[.chanRead s.opHint], by simp [TraceItem.isRead], .inl ⟨by simpa using hbusy, by simp⟩⟩
  · refine ⟨[.chanRead s.opHint, .readAnswer a.chunk a.err], by simp [TraceItem.isRead], .inr ⟨rfl, _, by simp; rfl, ?_⟩⟩
    exact .of_status _ _ _ _ (.inr (.inr (.inr rfl)))
  · refine ⟨[.chanRead s.opHint, .readAnswer a.chunk a.err], by simp [TraceItem.isRead], .inr ⟨rfl, _, by simp; rfl, ?_⟩⟩
    have haux : State.cacheCount (State.respond .noData 0 0 [] none (s.afterRead a)) = 0 := by simp [State.cacheCount, hc]
    have hresponse := MicroResponse.of_status (s := s) (t := State.respond .noData 0 0 [] none (s.afterRead a))
      .noData 0 [] none (.inl rfl)
    rwa [haux] at hresponse
  · exact ⟨[.chanRead s.opHint, .readAnswer a.chunk a.err], by simp [TraceItem.isRead],
      .inl ⟨by simpa using hbusy, by simp⟩⟩

/-- A read of the channel or its answer is no response. -/
theorem TraceItem.isResponse_of_isRead : ∀ {x : TraceItem}, x.isRead = true → x.isResponse = false
  | .chanRead _, _ => rfl
  | .readAnswer _ _, _ => rfl

/-- Settles O34: AUX counts the cache, which the invariant keeps within BUF_SIZE. -/
theorem decBlockAnswersOnceWithItsCacheLength : Obligations.DecBlockAnswersOnceWithItsCacheLength := by
  intro s t hinv hrun hbusy hstep
  have hcache : t.cacheCount.toNat = t.bdCache.length :=
    toNat_count_of_le t.cfg (everyStepKeepsTheInvariant s t hinv hstep).rxb.cache
  obtain ⟨reads, hreads, ⟨hb, htrace⟩ | ⟨hb, r, htrace, hr⟩⟩ :=
    decMicroStep_answers hbusy ((step_busy hrun hbusy).symm.trans hstep)
  · exact .inr ⟨hb, reads, htrace, fun x hx => TraceItem.isResponse_of_isRead (hreads x hx)⟩
  · exact .inl ⟨hb, reads, r, htrace, fun x hx => TraceItem.isResponse_of_isRead (hreads x hx),
      by rw [hr.aux, hcache], hr.status⟩

/-- A command's response has another status than FRAME. -/
theorem exec_status_ne_frame {i : Instr} {s t : State} {r : Response} (h : exec i s = .next t)
    (hr : .response r ∈ t.trace) (hstatus : r.status = 0x1) : .response r ∈ s.trace := by
  refine (statusesOfEachCommand i s t r h hr).resolve_right ?_
  cases i <;> simp [hstatus]

/-- Settles O35: only a micro-step answers FRAME. -/
theorem returnedFrameFitsTheCapacity : Obligations.ReturnedFrameFitsTheCapacity := by
  intro s t r hstep hr hstatus
  rcases step_cases hstep with
    ⟨later, -, rfl⟩ | ⟨-, -, resets, ⟨hbusy, hm⟩ | ⟨-, ⟨-, rfl⟩ | ⟨i, rest, -, he⟩ | ⟨w, rest, -, rfl⟩⟩⟩
  · exact .inl hr
  · obtain ⟨reads, hreads, hend⟩ := decMicroStep_answers (s := { s with resetIn := resets }) hbusy hm
    have hnot : .response r ∉ reads := fun hmem => nomatch hreads _ hmem
    rcases hend with ⟨-, htrace⟩ | ⟨-, r', htrace, hresponse⟩
    · exact .inl ((List.mem_append.1 (htrace ▸ hr)).resolve_right hnot)
    · rw [htrace, List.append_assoc, List.mem_append, List.mem_append, List.mem_singleton] at hr
      refine hr.imp_right fun hmem => ?_
      cases hmem.resolve_left hnot
      obtain ⟨hlen, hfit⟩ := hresponse.frame hstatus
      have hcap : s.opCap.toNat < 16384 := s.opCap.isLt
      have hle : r.data.length ≤ s.opCap.toNat := hfit
      rw [hlen, toNat_count, Nat.mod_eq_of_lt (by omega)]
      exact ⟨rfl, hle⟩
  · exact .inl hr
  · exact .inl (exec_status_ne_frame (s := { s with resetIn := resets, port := rest }) he hr hstatus)
  · refine .inl ((List.mem_append.1 hr).resolve_right fun hmem => ?_)
    cases List.mem_singleton.1 hmem
    exact absurd hstatus (by decide)

end Sys2Proof.Machine
end

section
/-! PROOFS. The statements on how long a DEC_BLOCK lasts (42_stream_reassembler.md R171): a synchronised one that is
supplied ends within a bound, and the two ways of not ending. -/

namespace Sys2Proof.Machine

/-! ### The states a scan and a read leave -/

section

variable (c : Byte) (s : State)

@[simp] theorem scanByte_cfg : (scanByte c s).cfg = s.cfg := by rw [scanByte_frame]
@[simp] theorem scanByte_opCap : (scanByte c s).opCap = s.opCap := by rw [scanByte_frame]
@[simp] theorem scanByte_opHint : (scanByte c s).opHint = s.opHint := by rw [scanByte_frame]
@[simp] theorem scanByte_hasReset : (scanByte c s).hasReset = s.hasReset := by rw [scanByte_frame]
@[simp] theorem scanByte_resetIn : (scanByte c s).resetIn = s.resetIn := by rw [scanByte_frame]
@[simp] theorem scanByte_port : (scanByte c s).port = s.port := by rw [scanByte_frame]
@[simp] theorem scanByte_laterReads : (scanByte c s).laterReads = s.laterReads := by rw [scanByte_frame]
@[simp] theorem scanByte_readPending : (scanByte c s).readPending = s.readPending := by rw [scanByte_frame]

end

/-- The state a read leaves that brings bytes: they are cached (R156). -/
def State.filled (a : ReadAnswer) (s : State) : State := { s.afterRead a with bdCache := a.chunk }

section

variable (a : ReadAnswer) (s : State)

@[simp] theorem State.filled_rxb : (s.filled a).rxb = s.rxb := by simp [State.filled, State.rxb, State.bdFrame]
@[simp] theorem State.filled_cfg : (s.filled a).cfg = s.cfg := s.afterRead_cfg a
@[simp] theorem State.filled_busy : (s.filled a).busy = s.busy := s.afterRead_busy a
@[simp] theorem State.filled_opCap : (s.filled a).opCap = s.opCap := s.afterRead_opCap a
@[simp] theorem State.filled_opHint : (s.filled a).opHint = s.opHint := s.afterRead_opHint a
@[simp] theorem State.filled_hasReset : (s.filled a).hasReset = s.hasReset := s.afterRead_hasReset a
@[simp] theorem State.filled_resetIn : (s.filled a).resetIn = s.resetIn := s.afterRead_resetIn a
@[simp] theorem State.filled_port : (s.filled a).port = s.port := s.afterRead_port a
@[simp] theorem State.filled_laterReads : (s.filled a).laterReads = s.laterReads := s.afterRead_laterReads a
@[simp] theorem State.filled_readPending : (s.filled a).readPending = s.readPending := s.afterRead_readPending a
@[simp] theorem State.filled_bdCache : (s.filled a).bdCache = a.chunk := rfl
@[simp] theorem State.filled_readAnswers : (s.filled a).readAnswers = (s.nextRead s.opHint).2.readAnswers := rfl
@[simp] theorem State.filled_trace :
    (s.filled a).trace = s.trace ++ [.chanRead s.opHint, .readAnswer a.chunk a.err] := s.afterRead_trace a

end

/-- The micro-step of a read that brings bytes. -/
theorem decMicroStep_brings {s : State} (hcache : s.bdCache = []) (hpending : s.readPending = false)
    (h : BringsBytes s.opHint (s.nextRead s.opHint).1) :
    ∃ a, (s.nextRead s.opHint).1 = some a ∧ a.chunk ≠ [] ∧ decMicroStep s = .next (s.filled a) := by
  obtain ⟨a, ha, hnone, hchunk, hduty⟩ := h
  refine ⟨a, ha, hchunk, ?_⟩
  rcases decMicroStep_answered hcache hpending ha hduty with ⟨e, he, -⟩ | ⟨-, hnil, -⟩ | ⟨-, -, hm⟩
  · exact nomatch hnone.symm.trans he
  · exact absurd hnil hchunk
  · exact hm

/-- A listed answer's bytes come to the cache and leave the bytes to scan as they were. -/
theorem State.stream_filled {s : State} {a : ReadAnswer} {later : List (Option ReadAnswer)} (hcache : s.bdCache = [])
    (hlisted : s.readAnswers = some a :: later) : (s.filled a).stream = s.stream := by
  simp [State.stream, State.nextRead_listed s.opHint hlisted, hcache, hlisted, bytesOfAnswer]

/-! ### A supply of bytes -/

/-- Of listed answers that all bring bytes, the next read takes one and leaves such answers. -/
theorem State.supplied.nextRead {s : State} (h : s.supplied) (hlisted : s.readAnswers ≠ []) :
    BringsBytes s.opHint (s.nextRead s.opHint).1 ∧
      ∀ o ∈ (s.nextRead s.opHint).2.readAnswers, BringsBytes s.opHint o := by
  obtain ⟨o, later, hr⟩ := List.exists_cons_of_ne_nil hlisted
  rw [State.supplied, hr] at h
  rw [State.nextRead_listed s.opHint hr]
  exact List.forall_mem_cons.1 h

/-- With an endless supply every read brings bytes, and the supply goes on. -/
theorem State.suppliedForEver.nextRead {s : State} (h : s.suppliedForEver) :
    BringsBytes s.opHint (s.nextRead s.opHint).1 ∧
      ∀ o ∈ (s.nextRead s.opHint).2.readAnswers, BringsBytes s.opHint o := by
  obtain ⟨hlisted, first, more, hlater, hall⟩ := h
  cases hr : s.readAnswers with
  | nil =>
    simp only [State.nextRead, hr, hlater]
    exact List.forall_mem_cons.1 hall
  | cons o later => exact hlisted.nextRead (by simp [hr])

/-! ### A synchronised DEC_BLOCK ends -/

/-- A DEC_BLOCK is in progress and synchronised. -/
structure InSync (s : State) : Prop where
  running : s.running
  busy    : s.busy = true
  synced  : s.rxb.synced = true

/-- More bytes than this a synchronised DEC_BLOCK cannot scan and go on: two for each byte of room, and two more. -/
def RxbView.room (cap : Nat) (r : RxbView) : Nat :=
  2 * (cap - r.held.length) + match r.esc with
    | .normal => 2
    | .escaped => 1

theorem RxbView.room_le (cap : Nat) (r : RxbView) : r.room cap ≤ 2 * cap + 2 := by
  simp only [RxbView.room]
  cases r.esc <;> simp only <;> omega

theorem RxbView.room_pos (cap : Nat) (r : RxbView) : 0 < r.room cap := by
  simp only [RxbView.room]
  cases r.esc <;> simp only <;> omega

/-- A byte that does not end the command takes room: it is ESC in NORMAL, or it is stored below the capacity. -/
theorem RxbView.scan_room {cap : Nat} {c : Byte} {r r' : RxbView} (hsync : r.synced = true)
    (h : r.scan cap c = (r', none)) : r'.synced = true ∧ r'.room cap < r.room cap := by
  rw [RxbView.scan, if_pos hsync] at h
  have store : ∀ v, r.act cap (.store v) = (r', none) → r'.synced = true ∧ r'.room cap < r.room cap := by
    intro v hv
    simp only [RxbView.act] at hv
    split at hv
    · simp at hv
    · next hfit =>
      simp only [Prod.mk.injEq, and_true] at hv
      subst hv
      refine ⟨hsync, ?_⟩
      simp only [RxbView.room, List.length_append, List.length_singleton]
      cases r.esc <;> simp only <;> omega
  cases he : r.esc with
  | normal =>
    rcases escStep_normal_cases c with ⟨-, hs⟩ | ⟨-, hs⟩ | ⟨-, -, hs⟩ <;> rw [he, hs] at h
    · simp [RxbView.act] at h
    · simp only [RxbView.act, Prod.mk.injEq, and_true] at h
      subst h
      exact ⟨hsync, by simp [RxbView.room, he]⟩
    · exact store c h
  | escaped =>
    rcases escStep_escaped_cases c with ⟨-, hs⟩ | ⟨-, hs⟩ | ⟨-, -, hs⟩ <;> rw [he, hs] at h
    · exact store 0xC0 h
    · exact store 0xDB h
    · simp [RxbView.act] at h

/-- Some run of at most `n` steps reaches an idle state. -/
def EndsWithin (n : Nat) (s : State) : Prop := ∃ k ≤ n, ∃ t, runSteps k s = .next t ∧ t.busy = false

theorem EndsWithin.of_step {n : Nat} {s u : State} (hstep : step s = .next u) (h : EndsWithin n u) :
    EndsWithin (n + 1) s := by
  obtain ⟨k, hk, t, ht, hidle⟩ := h
  exact ⟨k + 1, Nat.succ_le_succ hk, t, (runSteps_succ hstep).trans ht, hidle⟩

/-- A synchronised DEC_BLOCK with a byte cached ends with its scan, or goes on with less room. -/
theorem InSync.endsWithin_succ {n : Nat} {s : State} {c : Byte} {rest : List Byte} (h : InSync s)
    (hcache : s.bdCache = c :: rest)
    (hrest : ∀ u, u = scanByte c { s with bdCache := rest } → InSync u →
      u.rxb.room s.opCap.toNat < s.rxb.room s.opCap.toNat → EndsWithin n u) : EndsWithin (n + 1) s := by
  refine .of_step (step_scan h.running h.busy hcache) ?_
  obtain ⟨hview, hbusy, -⟩ := scanByte_cached_rxb c rest s
  cases hv : (s.rxb.scan s.opCap.toNat c).2 with
  | some v => exact ⟨0, Nat.zero_le n, _, rfl, by rw [hbusy, hv]; simp⟩
  | none =>
    obtain ⟨hsync, hroom⟩ := RxbView.scan_room h.synced (Prod.ext hview.symm hv)
    have hrunning : (scanByte c { s with bdCache := rest }).running := ⟨by simp [h.running.1], by simp [h.running.2]⟩
    exact hrest _ rfl ⟨hrunning, by rw [hbusy, hv, h.busy]; rfl, hsync⟩ hroom

/-- A synchronised DEC_BLOCK ends within as many steps as it has room, with that many bytes cached. -/
theorem InSync.endsWithin_cached {m : Nat} {s : State} (h : InSync s) (hroom : s.rxb.room s.opCap.toNat ≤ m)
    (hcache : m ≤ s.bdCache.length) : EndsWithin m s := by
  induction m generalizing s with
  | zero => exact absurd hroom (Nat.not_le.2 (RxbView.room_pos ..))
  | succ m ih =>
    obtain ⟨c, rest, hc⟩ := List.exists_cons_of_length_pos (Nat.lt_of_lt_of_le (Nat.succ_pos m) hcache)
    rw [hc, List.length_cons] at hcache
    refine h.endsWithin_succ hc fun u hu hsync hless => ih hsync ?_ ?_
    · have : u.opCap = s.opCap := by simp [hu]
      rw [this]
      omega
    · rw [hu, scanByte_bdCache]
      exact Nat.le_of_succ_le_succ hcache

/-- No read is pending, and at least `m` bytes are to come, or bytes without end. -/
structure Fed (m : Nat) (s : State) : Prop where
  answered : s.readPending = false
  bytes    : s.supplied ∧ m ≤ s.stream.length ∨ s.suppliedForEver

theorem Fed.scan {m : Nat} {s : State} {c : Byte} {rest : List Byte} (h : Fed (m + 1) s)
    (hcache : s.bdCache = c :: rest) : Fed m (scanByte c { s with bdCache := rest }) where
  answered := by simp [h.answered]
  bytes := by
    rcases h.bytes with ⟨hlisted, hlen⟩ | hever
    · refine .inl ⟨by simpa [State.supplied] using hlisted, ?_⟩
      simp only [State.stream, hcache, List.cons_append, List.length_cons] at hlen
      simp only [State.stream, scanByte_bdCache, scanByte_readAnswers]
      exact Nat.le_of_succ_le_succ hlen
    · exact .inr (by simpa [State.suppliedForEver, State.supplied] using hever)

/-- With an empty cache the next step reads bytes, and no fewer are to come. -/
theorem Fed.read {m : Nat} {s : State} (h : Fed (m + 1) s) (hrun : s.running) (hbusy : s.busy = true)
    (hcache : s.bdCache = []) : ∃ a, a.chunk ≠ [] ∧ step s = .next (s.filled a) ∧ Fed (m + 1) (s.filled a) := by
  obtain ⟨hanswered, ⟨hlisted, hlen⟩ | hever⟩ := h
  · have hne : s.readAnswers ≠ [] := fun hnil => by simp [State.stream, hcache, hnil] at hlen
    obtain ⟨hbrings, hmore⟩ := hlisted.nextRead hne
    obtain ⟨a, ha, hchunk, hm⟩ := decMicroStep_brings hcache hanswered hbrings
    obtain ⟨o, later, hr⟩ := List.exists_cons_of_ne_nil hne
    have ho : o = some a := by rwa [State.nextRead_listed s.opHint hr] at ha
    refine ⟨a, hchunk, (step_busy hrun hbusy).trans hm, by simp [hanswered], .inl ⟨?_, ?_⟩⟩
    · simpa [State.supplied] using hmore
    · rwa [State.stream_filled hcache (ho ▸ hr)]
  · obtain ⟨hbrings, hmore⟩ := hever.nextRead
    obtain ⟨a, -, hchunk, hm⟩ := decMicroStep_brings hcache hanswered hbrings
    obtain ⟨-, hlater⟩ := hever
    refine ⟨a, hchunk, (step_busy hrun hbusy).trans hm, by simp [hanswered], .inr ⟨?_, ?_⟩⟩
    · simpa [State.supplied] using hmore
    · simpa using hlater

/-- A synchronised DEC_BLOCK that is fed as many bytes as it has room ends within twice that many steps: each byte is
scanned in one step, and at most one step before it is a read. -/
theorem InSync.endsWithin_fed {m : Nat} {s : State} (h : InSync s) (hroom : s.rxb.room s.opCap.toNat ≤ m)
    (hfed : Fed m s) : EndsWithin (2 * m) s := by
  induction m generalizing s with
  | zero => exact absurd hroom (Nat.not_le.2 (RxbView.room_pos ..))
  | succ m ih =>
    have cached : ∀ u, InSync u → u.rxb.room u.opCap.toNat ≤ m + 1 → Fed (m + 1) u → u.bdCache ≠ [] →
        EndsWithin (2 * m + 1) u := by
      intro u hsync hroom hfed hcache
      obtain ⟨c, rest, hc⟩ := List.exists_cons_of_ne_nil hcache
      refine hsync.endsWithin_succ hc fun v hv hsync' hless => ih hsync' ?_ (hv ▸ hfed.scan hc)
      have : v.opCap = u.opCap := by simp [hv]
      rw [this]
      omega
    by_cases hcache : s.bdCache = []
    · obtain ⟨a, hchunk, hstep, hfed'⟩ := hfed.read h.running h.busy hcache
      have hsync : InSync (s.filled a) :=
        ⟨⟨by simp [h.running.1], by simp [h.running.2]⟩, by simp [h.busy], by simp [h.synced]⟩
      exact .of_step hstep (cached _ hsync (by simpa using hroom) hfed' (by simpa using hchunk))
    · obtain ⟨k, hk, hend⟩ := cached s h hroom hfed hcache
      exact ⟨k, by omega, hend⟩

/-- Settles O36: the room of a synchronised DEC_BLOCK is at most `2·op_cap + 2`. -/
theorem synchronisedDecBlockEnds : Obligations.SynchronisedDecBlockEnds := by
  intro s hrun hbusy hsync
  have h : InSync s := ⟨hrun, hbusy, hsync⟩
  have hroom := RxbView.room_le s.opCap.toNat s.rxb
  exact ⟨fun hcache => h.endsWithin_cached hroom hcache,
    fun hpending hbytes => h.endsWithin_fed hroom ⟨hpending, hbytes⟩⟩

/-! ### A DEC_BLOCK that does not end -/

/-- A read that is not answered leaves each further micro-step without effect (R171 (a), log 8). -/
theorem decMicroStep_pending {s : State} (hcache : s.bdCache = []) (hpending : s.readPending = true) :
    decMicroStep s = .next s := by
  rcases decMicroStep_cases s with ⟨c, rest, hcons, -⟩ | ⟨-, ⟨-, hm⟩ | ⟨hp, -⟩⟩
  · exact nomatch hcache.symm.trans hcons
  · exact hm
  · exact nomatch hpending.symm.trans hp

/-- The state in which a read that is not answered begins to wait. -/
def State.unanswered (s : State) : State :=
  { (s.nextRead s.opHint).2.log (.chanRead s.opHint) with readPending := true }

theorem decMicroStep_unanswered {s : State} (hcache : s.bdCache = []) (hpending : s.readPending = false)
    (hnone : (s.nextRead s.opHint).1 = none) : decMicroStep s = .next s.unanswered := by
  rcases decMicroStep_cases s with ⟨c, rest, hcons, -⟩ | ⟨-, ⟨hp, -⟩ | ⟨-, ⟨-, hm⟩ | ⟨a, ha, -⟩⟩⟩
  · exact nomatch hcache.symm.trans hcons
  · exact nomatch hpending.symm.trans hp
  · exact hm
  · exact nomatch hnone.symm.trans ha

theorem State.unanswered_frame (s : State) :
    s.unanswered =
      { s with
        readPending := true, readAnswers := s.unanswered.readAnswers, freeDraws := s.unanswered.freeDraws
        trace := s.trace ++ [.chanRead s.opHint] } := by
  simp only [State.unanswered]
  rw [State.nextRead_snd]
  rfl

theorem runSteps_fixed {s : State} (h : step s = .next s) (n : Nat) : runSteps n s = .next s := by
  induction n with
  | zero => rfl
  | succ n ih => rw [runSteps_succ h, ih]

/-- A DEC_BLOCK in progress is hunting, and no END is to come: not from the cache and the answers listed, and not from
what the channel does behind them, which is `later`. -/
structure Hunts (later : LaterReads) (s : State) : Prop where
  running  : s.running
  busy     : s.busy = true
  hunting  : s.bdSynced = false
  noEnd    : (0xC0 : Byte) ∉ s.stream
  supplied : s.supplied
  later_eq : s.laterReads = later
  goesOn   : later = .silent ∨ s.readPending = false ∧ ∃ first more, later = .again first more ∧
    (∀ o ∈ first :: more, BringsBytes s.opHint o) ∧ (0xC0 : Byte) ∉ (first :: more).flatMap bytesOfAnswer

/-- A hunting DEC_BLOCK discards a cached byte that is no END. -/
theorem Hunts.scan {later : LaterReads} {s : State} {c : Byte} {rest : List Byte} (h : Hunts later s)
    (hcache : s.bdCache = c :: rest) :
    step s = .next { s with bdCache := rest } ∧ Hunts later { s with bdCache := rest } := by
  have hnoEnd := h.noEnd
  simp only [State.stream, hcache, List.cons_append, List.mem_cons, not_or] at hnoEnd
  obtain ⟨hc, hrest⟩ := hnoEnd
  have hstep := huntingDiscardsUpToTheFirstEnd s c rest h.running h.busy h.hunting hcache
  rw [decide_eq_false (Ne.symm hc), ← h.hunting] at hstep
  exact ⟨hstep, h.running, h.busy, h.hunting, hrest, h.supplied, h.later_eq, h.goesOn⟩

/-- A hunting DEC_BLOCK that reads bytes without an END goes on hunting. -/
theorem Hunts.fill {later : LaterReads} {s : State} (h : Hunts later s) (hcache : s.bdCache = [])
    (hpending : s.readPending = false) (hbrings : BringsBytes s.opHint (s.nextRead s.opHint).1)
    (hmore : ∀ o ∈ (s.nextRead s.opHint).2.readAnswers, BringsBytes s.opHint o)
    (hnoEnd : (0xC0 : Byte) ∉ bytesOfAnswer (s.nextRead s.opHint).1 ++
      (s.nextRead s.opHint).2.readAnswers.flatMap bytesOfAnswer) :
    ∃ a, step s = .next (s.filled a) ∧ Hunts later (s.filled a) := by
  obtain ⟨a, ha, -, hm⟩ := decMicroStep_brings hcache hpending hbrings
  rw [ha] at hnoEnd
  refine ⟨a, (step_busy h.running h.busy).trans hm, ⟨by simp [h.running.1], by simp [h.running.2]⟩, by simp [h.busy], ?_,
    hnoEnd, by simpa [State.supplied] using hmore, by simp [h.later_eq], by simpa using h.goesOn⟩
  exact (congrArg RxbView.synced (s.filled_rxb a)).trans h.hunting

/-- A step of a hunting DEC_BLOCK leaves it hunting, with no more than a read and its answer added to the trace. -/
theorem Hunts.goes_hunting {later : LaterReads} {s : State} (h : Hunts later s) :
    ∃ u new, step s = .next u ∧ Hunts later u ∧ u.trace = s.trace ++ new ∧ ∀ x ∈ new, x.isRead = true := by
  cases hcache : s.bdCache with
  | cons c rest =>
    obtain ⟨hstep, hu⟩ := h.scan hcache
    exact ⟨_, [], hstep, hu, (List.append_nil _).symm, by simp⟩
  | nil =>
    have filled : ∀ a, step s = .next (s.filled a) → Hunts later (s.filled a) → ∃ u new, step s = .next u ∧
        Hunts later u ∧ u.trace = s.trace ++ new ∧ ∀ x ∈ new, x.isRead = true :=
      fun a hstep hu => ⟨_, _, hstep, hu, s.filled_trace a, by simp [TraceItem.isRead]⟩
    have hbusy := step_busy h.running h.busy
    cases hpending : s.readPending with
    | true => exact ⟨s, [], hbusy.trans (decMicroStep_pending hcache hpending), h, (List.append_nil _).symm, by simp⟩
    | false =>
      have hnoEnd := h.noEnd
      simp only [State.stream, hcache, List.nil_append] at hnoEnd
      cases hr : s.readAnswers with
      | cons o answers =>
        obtain ⟨hbrings, hmore⟩ := h.supplied.nextRead (by simp [hr])
        obtain ⟨a, hstep, hu⟩ := h.fill hcache hpending hbrings hmore
          (by simpa [State.nextRead_listed s.opHint hr, hr] using hnoEnd)
        exact filled a hstep hu
      | nil =>
        rcases h.goesOn with hsilent | ⟨-, first, more, hagain, hall, hend⟩
        · have hnone : (s.nextRead s.opHint).1 = none := by simp [State.nextRead, hr, h.later_eq, hsilent]
          have hsame : (s.nextRead s.opHint).2 = s := by simp [State.nextRead, hr, h.later_eq, hsilent]
          refine ⟨_, _, hbusy.trans (decMicroStep_unanswered hcache hpending hnone), ?_,
            by rw [State.unanswered_frame], by simp [TraceItem.isRead]⟩
          rw [State.unanswered, hsame]
          exact ⟨h.running, h.busy, h.hunting, h.noEnd, h.supplied, h.later_eq, .inl hsilent⟩
        · have hever : s.suppliedForEver := ⟨h.supplied, first, more, h.later_eq.trans hagain, hall⟩
          obtain ⟨hbrings, hmore⟩ := hever.nextRead
          obtain ⟨a, hstep, hu⟩ := h.fill hcache hpending hbrings hmore
            (by simpa [State.nextRead, hr, h.later_eq, hagain] using hend)
          exact filled a hstep hu

/-- Every run of a hunting DEC_BLOCK leaves it hunting, with only reads added to the trace. -/
theorem Hunts.runs_hunting {later : LaterReads} {s : State} (h : Hunts later s) (n : Nat) :
    ∃ t new, runSteps n s = .next t ∧ Hunts later t ∧ t.trace = s.trace ++ new ∧ ∀ x ∈ new, x.isRead = true := by
  induction n generalizing s with
  | zero => exact ⟨s, [], rfl, h, (List.append_nil _).symm, by simp⟩
  | succ n ih =>
    obtain ⟨u, first, hstep, hu, hfirst, hreads⟩ := h.goes_hunting
    obtain ⟨t, rest, hrun, ht, hrest, hreads'⟩ := ih hu
    refine ⟨t, first ++ rest, (runSteps_succ hstep).trans hrun, ht, by rw [hrest, hfirst, List.append_assoc], ?_⟩
    exact fun x hx => (List.mem_append.1 hx).elim (hreads x) (hreads' x)

/-- Settles O37: a read that is not answered, and hunting with no END to come. -/
theorem decBlockCanHang : Obligations.DecBlockCanHang := by
  refine ⟨fun s hrun hbusy hcache hpending hnone => ?waits, fun s n hrun hbusy hhunt hend hsupplied hsilent => ?silent,
    fun s first more n hrun hbusy hhunt hpending hend hever hlater hmore => ?again⟩
  case waits =>
    have hframe := s.unanswered_frame
    refine ⟨_, (step_busy hrun hbusy).trans (decMicroStep_unanswered hcache hpending hnone), hframe, fun n => ?_⟩
    refine runSteps_fixed ((step_busy ?_ ?_).trans (decMicroStep_pending ?_ rfl)) n <;> rw [hframe] <;> assumption
  case silent =>
    obtain ⟨t, new, ht, h, htrace, hreads⟩ :=
      Hunts.runs_hunting ⟨hrun, hbusy, hhunt, hend, hsupplied, hsilent, .inl rfl⟩ n
    exact ⟨t, new, ht, h.busy, h.hunting, htrace, hreads⟩
  case again =>
    obtain ⟨hsupplied, first', more', hlater', hall⟩ := hever
    cases hlater.symm.trans hlater'
    obtain ⟨t, new, ht, h, htrace, hreads⟩ :=
      Hunts.runs_hunting ⟨hrun, hbusy, hhunt, hend, hsupplied, hlater, .inr ⟨hpending, first, more, rfl, hall, hmore⟩⟩ n
    obtain ⟨hanswered, -⟩ := h.goesOn.resolve_left nofun
    exact ⟨t, new, ht, h.busy, h.hunting, hanswered, htrace, hreads⟩

end Sys2Proof.Machine
end

section
/-! PROOFS. The statement that the cut of the stream into chunks does not change a DEC_BLOCK's response
(42_stream_reassembler.md R172 (a)), and what the statements on successive commands are proved from: the verdicts that the
bytes to come give, whatever their cut. -/

namespace Sys2Proof.Machine

/-! ### The verdicts of a byte sequence -/

/-- Scanned from the view `r` under any capacities of `K`, the bytes give these verdicts, one after another, the last one
at the last byte, and leave the view `r'`. -/
inductive Yields (K : Nat → Prop) : RxbView → List Byte → List Verdict → RxbView → Prop
  | done (r : RxbView) : Yields K r [] [] r
  | quiet {r r₁ r' : RxbView} {c : Byte} {cs : List Byte} {vs : List Verdict}
      (scan : ∀ cap, K cap → r.scan cap c = (r₁, none)) (more : vs ≠ []) (rest : Yields K r₁ cs vs r') :
      Yields K r (c :: cs) vs r'
  | verdict {r r₁ r' : RxbView} {c : Byte} {cs : List Byte} {v : Verdict} {vs : List Verdict}
      (scan : ∀ cap, K cap → r.scan cap c = (r₁, some v)) (rest : Yields K r₁ cs vs r') :
      Yields K r (c :: cs) (v :: vs) r'

/-- Without a verdict nothing is scanned. -/
theorem Yields.eq_of_nil {K : Nat → Prop} {r r' : RxbView} {cs : List Byte} (h : Yields K r cs [] r') :
    cs = [] ∧ r = r' := by
  cases h with
  | done => exact ⟨rfl, rfl⟩
  | quiet _ more _ => exact absurd rfl more

theorem Yields.ne_nil {K : Nat → Prop} {r r' : RxbView} {cs : List Byte} {v : Verdict} {vs : List Verdict}
    (h : Yields K r cs (v :: vs) r') : cs ≠ [] := by
  cases h <;> simp

/-! ### What a micro-step shows of the stream -/

/-- The response an answer that interrupts gives: NO_DATA, or, to an error, one that says nothing of the stream. -/
def Interruption (o : Option ReadAnswer) (r : Response) : Prop :=
  r = ⟨0x20000000, [], none⟩ ∨ r.verdict? = none ∧ ∃ a, o = some a ∧ a.err ≠ none

/-- From `s` to `t` the trace grows by reads, and by these items behind them. -/
def AddsReads (last : List TraceItem) (s t : State) : Prop :=
  ∃ reads, t.trace = s.trace ++ reads ++ last ∧ ∀ x ∈ reads, x.isRead = true

/-- What a micro-step from `s` to `u` does to the bytes to come: it scans the first of them, or leaves them as they are,
at a read or at an answer that ends the command by itself. -/
inductive Progress (s u : State) : Prop
  | scanned (c : Byte) (o : Option Verdict) (stream : s.stream = c :: u.stream)
      (view : s.rxb.scan s.opCap.toNat c = (u.rxb, o)) (busy : u.busy = o.isNone)
      (trace : AddsReads (Verdict.items u.cacheCount o) s u) (answers : u.readAnswers = s.readAnswers)
  | read (stream : u.stream = s.stream) (view : u.rxb = s.rxb) (busy : u.busy = true) (trace : AddsReads [] s u)
      (answers : u.readAnswers <:+ s.readAnswers)
  | interrupted (o : Option ReadAnswer) (r : Response) (stream : u.stream = s.stream) (view : u.rxb = s.rxb)
      (busy : u.busy = false) (trace : AddsReads [.response r] s u) (answers : s.readAnswers = o :: u.readAnswers)
      (ends : interrupts o = true) (response : Interruption o r)

/-- An answer to a read that goes behind no listed answer is the first of those listed. -/
theorem State.readAnswers_of_nextRead {s : State} {a : ReadAnswer} (hlisted : s.readAnswers = [] → s.laterReads = .silent)
    (h : (s.nextRead s.opHint).1 = some a) : ∃ later, s.readAnswers = some a :: later := by
  cases hr : s.readAnswers with
  | nil => simp [State.nextRead, hr, hlisted hr] at h
  | cons o later =>
    rw [State.nextRead_listed s.opHint hr] at h
    exact ⟨later, by rw [← show o = some a from h]⟩

/-- A read that is not answered leaves the bytes to come as they are. -/
theorem State.unanswered_stream {s : State} (hlisted : s.readAnswers = [] → s.laterReads = .silent)
    (hnone : (s.nextRead s.opHint).1 = none) :
    s.unanswered.stream = s.stream ∧ s.unanswered.readAnswers <:+ s.readAnswers := by
  cases hr : s.readAnswers with
  | nil => simp [State.unanswered, State.stream, State.nextRead, hr, hlisted hr]
  | cons o later =>
    have ho : o = none := by rwa [State.nextRead_listed s.opHint hr] at hnone
    simp [State.unanswered, State.stream, State.nextRead_listed s.opHint hr, hr, ho, bytesOfAnswer]

/-- A read whose answer is handed on was answered within the hint: a longer answer ends the run (R15). -/
theorem decMicroStep_duty {s u : State} {a : ReadAnswer} (hcache : s.bdCache = []) (hpending : s.readPending = false)
    (hanswer : (s.nextRead s.opHint).1 = some a) (h : decMicroStep s = .next u) : a.chunk.length ≤ s.opHint.toNat := by
  rcases decMicroStep_cases s with ⟨c, rest, hcons, -⟩ | ⟨-, ⟨hp, -⟩ | ⟨-, ⟨hnone, -⟩ | ⟨b, hb, ⟨-, hm⟩ | ⟨hle, -⟩⟩⟩⟩
  · exact nomatch hcache.symm.trans hcons
  · exact nomatch hpending.symm.trans hp
  · exact nomatch hanswer.symm.trans hnone
  · exact nomatch hm.symm.trans h
  · cases hanswer.symm.trans hb
    exact hle

/-- A read that is answered with bytes leaves the bytes to come as they are; an answer of another kind interrupts. -/
theorem decMicroStep_answered_progress {s u : State} {a : ReadAnswer} (hbusy : s.busy = true) (hcache : s.bdCache = [])
    (hpending : s.readPending = false) (hlisted : s.readAnswers = [] → s.laterReads = .silent)
    (hanswer : (s.nextRead s.opHint).1 = some a) (h : decMicroStep s = .next u) : Progress s u := by
  obtain ⟨later, hr⟩ := State.readAnswers_of_nextRead hlisted hanswer
  have hreads : ∀ x ∈ [TraceItem.chanRead s.opHint, .readAnswer a.chunk a.err], x.isRead = true := by
    simp [TraceItem.isRead]
  have hnext := State.nextRead_listed s.opHint hr
  have hfilled := State.stream_filled hcache hr
  have hduty := decMicroStep_duty hcache hpending hanswer h
  rcases decMicroStep_answered hcache hpending hanswer hduty with ⟨e, he, hm⟩ | ⟨he, hnil, hm⟩ | ⟨he, hne, hm⟩ <;>
    cases hm.symm.trans h
  · refine .interrupted (some a) _ hfilled (s.filled_rxb a) rfl ⟨_, by simp; rfl, hreads⟩ (by simp [hr, hnext])
      (by simp [interrupts, he]) (.inr ⟨?_, a, rfl, by simp [he]⟩)
    simp [Response.verdict?, Response.status, Status.code]
  · refine .interrupted (some a) ⟨0x20000000, [], none⟩ ?_ ?_ rfl ⟨_, by simp; rfl, hreads⟩ (by simp [hr, hnext])
      (by simp [interrupts, hnil]) (.inl rfl)
    · simp [State.stream, hcache, hr, hnext, hnil, bytesOfAnswer]
    · simp [State.rxb, State.bdFrame]
  · exact .read hfilled (s.filled_rxb a) (by simp [hbusy])
      ⟨_, (s.filled_trace a).trans (List.append_nil _).symm, hreads⟩ (by simp [hr, hnext])

/-- A micro-step that makes no read behind the listed answers is one of the three. -/
theorem decMicroStep_progress {s u : State} (hbusy : s.busy = true)
    (hlisted : s.bdCache = [] → s.readAnswers = [] → s.laterReads = .silent) (h : decMicroStep s = .next u) :
    Progress s u := by
  cases hcache : s.bdCache with
  | cons c rest =>
    cases (decMicroStep_scan hcache).symm.trans h
    obtain ⟨hview, hb, htrace⟩ := scanByte_cached_rxb c rest s
    refine .scanned c _ (by simp [State.stream, hcache]) (Prod.ext hview.symm rfl) (by simpa [hbusy] using hb)
      ⟨[], ?_, by simp⟩ (by simp)
    simpa [State.cacheCount] using htrace
  | nil =>
    have hlisted := hlisted hcache
    cases hpending : s.readPending with
    | true =>
      cases (decMicroStep_pending hcache hpending).symm.trans h
      exact .read rfl rfl hbusy ⟨[], by simp, by simp⟩ (List.suffix_refl _)
    | false =>
      cases hanswer : (s.nextRead s.opHint).1 with
      | none =>
        cases (decMicroStep_unanswered hcache hpending hanswer).symm.trans h
        obtain ⟨hstream, hanswers⟩ := State.unanswered_stream hlisted hanswer
        refine .read hstream ?_ ?_ ⟨[.chanRead s.opHint], ?_, by simp [TraceItem.isRead]⟩ hanswers <;>
          rw [State.unanswered_frame]
        · rfl
        · exact hbusy
        · simp
      | some a => exact decMicroStep_answered_progress hbusy hcache hpending hlisted hanswer h

theorem Progress.answers_suffix {s u : State} (h : Progress s u) : u.readAnswers <:+ s.readAnswers := by
  cases h with
  | scanned c o stream view busy trace answers => rw [answers]
  | read stream view busy trace answers => exact answers
  | interrupted o r stream view busy trace answers => rw [answers]; exact List.suffix_cons ..

/-- A micro-step leaves the build, the operands, the inputs but the read answers, and the run going on. -/
theorem decMicroStep_kept {s u : State} (h : decMicroStep s = .next u) :
    u.cfg = s.cfg ∧ u.opCap = s.opCap ∧ u.opHint = s.opHint ∧ u.port = s.port ∧ u.laterReads = s.laterReads ∧
      (s.running → u.running) := by
  rw [decMicroStep_frame h]
  exact ⟨rfl, rfl, rfl, rfl, rfl, id⟩

theorem AddsReads.trans {last : List TraceItem} {s u t : State} (h : AddsReads [] s u) (h' : AddsReads last u t) :
    AddsReads last s t := by
  obtain ⟨reads, hu, hreads⟩ := h
  obtain ⟨reads', ht, hreads'⟩ := h'
  refine ⟨reads ++ reads', by rw [ht, hu]; simp, fun x hx => ?_⟩
  exact (List.mem_append.1 hx).elim (hreads x) (hreads' x)

/-! ### A DEC_BLOCK in progress that is answered -/

/-- A DEC_BLOCK is in progress, under a capacity of `K`, and every read listed is answered within its hint. -/
structure Served (K : Nat → Prop) (s : State) : Prop where
  running  : s.running
  busy     : s.busy = true
  answered : s.readPending = false
  capacity : K s.opCap.toNat
  within   : ∀ o ∈ s.readAnswers, ∃ a, o = some a ∧ a.chunk.length ≤ s.opHint.toNat

/-- With bytes to come the next step makes progress: it scans one, or takes an answer. -/
theorem Served.progress {K : Nat → Prop} {s : State} (h : Served K s) (hbytes : s.stream ≠ []) :
    ∃ u, decMicroStep s = .next u ∧ Progress s u ∧ u.readPending = false ∧
      u.stream.length + u.readAnswers.length < s.stream.length + s.readAnswers.length := by
  cases hcache : s.bdCache with
  | cons c rest =>
    have hm := decMicroStep_scan hcache
    exact ⟨_, hm, decMicroStep_progress h.busy (by simp [hcache]) hm, by simp [h.answered],
      by simp [State.stream, hcache]⟩
  | nil =>
    have hanswers : s.readAnswers ≠ [] := fun hnil => hbytes (by simp [State.stream, hcache, hnil])
    obtain ⟨o, later, hr⟩ := List.exists_cons_of_ne_nil hanswers
    obtain ⟨a, rfl, hduty⟩ := h.within o (by simp [hr])
    have hnext := State.nextRead_listed s.opHint hr
    have hfilled := State.stream_filled hcache hr
    have progress := fun {u : State} (hm : decMicroStep s = .next u) =>
      decMicroStep_progress h.busy (fun _ hnil => absurd hnil hanswers) hm
    rcases decMicroStep_answered hcache h.answered (by rw [hnext]) hduty with
      ⟨e, -, hm⟩ | ⟨-, hnil, hm⟩ | ⟨-, -, hm⟩ <;> refine ⟨_, hm, progress hm, by simp [h.answered], ?_⟩
    · exact Nat.add_lt_add_of_le_of_lt (Nat.le_of_eq (congrArg List.length hfilled)) (by simp [hnext, hr])
    · simp [State.stream, hnext, hr, hcache, hnil, bytesOfAnswer]
    · exact Nat.add_lt_add_of_le_of_lt (Nat.le_of_eq (congrArg List.length hfilled)) (by simp [hnext, hr])

theorem Served.next {K : Nat → Prop} {s u : State} (h : Served K s) (hm : decMicroStep s = .next u) (hp : Progress s u)
    (hanswered : u.readPending = false) (hbusy : u.busy = true) : Served K u := by
  obtain ⟨-, hcap, hhint, -, -, hrun⟩ := decMicroStep_kept hm
  exact ⟨hrun h.running, hbusy, hanswered, hcap ▸ h.capacity,
    fun o ho => hhint ▸ h.within o (hp.answers_suffix.subset ho)⟩

/-- The DEC_BLOCK in progress in `s` ends in `t` with the response `r`, behind reads only. -/
structure Ended (s t : State) (r : Response) : Prop where
  reaches  : Reaches s t
  running  : t.running
  idle     : t.busy = false
  answered : t.readPending = false
  cfg      : t.cfg = s.cfg
  port     : t.port = s.port
  answers  : t.readAnswers <:+ s.readAnswers
  trace    : AddsReads [.response r] s t

theorem Reaches.of_step {s u t : State} (hstep : step s = .next u) (h : Reaches u t) : Reaches s t := by
  obtain ⟨n, hn⟩ := h
  exact ⟨n + 1, (runSteps_succ hstep).trans hn⟩

theorem Reaches.trans {s u t : State} (h : Reaches s u) (h' : Reaches u t) : Reaches s t := by
  obtain ⟨m, hm⟩ := h
  obtain ⟨n, hn⟩ := h'
  exact ⟨m + n, (runSteps_add hm).trans hn⟩

/-- A micro-step that leaves the command in progress comes before its end. -/
theorem Ended.of_step {s u t : State} {r : Response} (hrun : s.running) (hbusy : s.busy = true)
    (hm : decMicroStep s = .next u) (hp : Progress s u) (hreads : AddsReads [] s u) (h : Ended u t r) : Ended s t r := by
  obtain ⟨hcfg, -, -, hport, -, -⟩ := decMicroStep_kept hm
  exact ⟨.of_step ((step_busy hrun hbusy).trans hm) h.reaches, h.running, h.idle, h.answered, h.cfg.trans hcfg,
    h.port.trans hport, h.answers.trans hp.answers_suffix, hreads.trans h.trace⟩

/-- A micro-step can be the command's end. -/
theorem Ended.by_step {s u : State} {r : Response} (hrun : s.running) (hbusy : s.busy = true)
    (hm : decMicroStep s = .next u) (hp : Progress s u) (hanswered : u.readPending = false) (hidle : u.busy = false)
    (htrace : AddsReads [.response r] s u) : Ended s u r := by
  obtain ⟨hcfg, -, -, hport, -, hrun'⟩ := decMicroStep_kept hm
  exact ⟨⟨1, runSteps_succ ((step_busy hrun hbusy).trans hm)⟩, hrun' hrun, hidle, hanswered, hcfg, hport,
    hp.answers_suffix, htrace⟩

/-- How many of the answers to come end a DEC_BLOCK by themselves. -/
def State.interruptions (s : State) : Nat := s.readAnswers.countP interrupts

/-- What is left to come in `t`, when the command that ended with `r` was to give `v` first: the verdicts behind `v`,
where it gave `v`; else `v` still, with one of the interrupting answers gone. -/
def Remains (K : Nat → Prop) (v : Verdict) (vs : List Verdict) (r' : RxbView) (cs : List Byte) (s t : State)
    (r : Response) : Prop :=
  r = v.response t.cacheCount ∧ Yields K t.rxb cs vs r' ∨
  (∃ o ∈ s.readAnswers, Interruption o r) ∧ t.interruptions < s.interruptions ∧ Yields K t.rxb cs (v :: vs) r'

theorem Remains.of_step {K : Nat → Prop} {v : Verdict} {vs : List Verdict} {r' : RxbView} {cs : List Byte}
    {s u t : State} {r : Response} (hsuffix : u.readAnswers <:+ s.readAnswers) (h : Remains K v vs r' cs u t r) :
    Remains K v vs r' cs s t r := by
  refine h.imp_right fun ⟨⟨o, ho, hr⟩, hless, hy⟩ => ⟨⟨o, hsuffix.subset ho, hr⟩, ?_, hy⟩
  exact Nat.lt_of_lt_of_le hless hsuffix.sublist.countP_le

/-- A DEC_BLOCK that is served ends: with the first verdict of the bytes to come, or at an answer that interrupts. -/
theorem Served.ends {K : Nat → Prop} {v : Verdict} {vs : List Verdict} {r' : RxbView} {post : List Byte} {n : Nat}
    {s : State} {pre : List Byte} (hn : s.stream.length + s.readAnswers.length ≤ n) (h : Served K s)
    (hstream : s.stream = pre ++ post) (hy : Yields K s.rxb pre (v :: vs) r') :
    ∃ t r cs, Ended s t r ∧ t.stream = cs ++ post ∧ Remains K v vs r' cs s t r := by
  have hbytes : s.stream ≠ [] := by simp [hstream, hy.ne_nil]
  induction n generalizing s pre with
  | zero => exact absurd (List.length_eq_zero_iff.1 (by omega)) hbytes
  | succ n ih =>
    obtain ⟨u, hm, hp, hanswered, hless⟩ := h.progress hbytes
    have later : ∀ cs, u.busy = true → AddsReads [] s u → u.stream = cs ++ post → Yields K u.rxb cs (v :: vs) r' →
        ∃ t r cs, Ended s t r ∧ t.stream = cs ++ post ∧ Remains K v vs r' cs s t r := by
      intro cs hbusy hreads hstream' hy'
      obtain ⟨t, r, cs', hend, hleft, hremains⟩ :=
        ih (by omega) (h.next hm hp hanswered hbusy) hstream' hy' (by simp [hstream', hy'.ne_nil])
      exact ⟨t, r, cs', hend.of_step h.running h.busy hm hp hreads, hleft, hremains.of_step hp.answers_suffix⟩
    cases hp with
    | scanned c o stream view busy trace answers =>
      cases hy with
      | quiet scan more rest =>
        obtain ⟨rfl, hrest⟩ := List.cons.inj (stream.symm.trans hstream)
        cases view.symm.trans (scan _ h.capacity)
        exact later _ busy trace hrest rest
      | verdict scan rest =>
        obtain ⟨rfl, hrest⟩ := List.cons.inj (stream.symm.trans hstream)
        cases view.symm.trans (scan _ h.capacity)
        exact ⟨u, _, _, .by_step h.running h.busy hm (.scanned c _ stream view busy trace answers) hanswered busy trace,
          hrest, .inl ⟨rfl, rest⟩⟩
    | read stream view busy trace answers => exact later pre busy trace (stream.trans hstream) (view ▸ hy)
    | interrupted o r stream view busy trace answers ends response =>
      refine ⟨u, r, pre, .by_step h.running h.busy hm (.interrupted o r stream view busy trace answers ends response)
        hanswered busy trace, stream.trans hstream, .inr ⟨⟨o, by simp [answers], response⟩, ?_, view ▸ hy⟩⟩
      simp [State.interruptions, answers, ends]

/-! ### The cut into chunks does not matter within one command (R172 (a)) -/

@[simp] theorem Verdict.response_status (v : Verdict) (aux : Count) : (v.response aux).status = v.status.code :=
  responseWord_status ..

@[simp] theorem Verdict.response_len (v : Verdict) (aux : Count) : (v.response aux).len = count v.data.length :=
  responseWord_len ..

/-- Equal views are equal flags, sizes and frames. -/
theorem State.fields_of_rxb {s t : State} (h : s.rxb = t.rxb) :
    s.bdSynced = t.bdSynced ∧ s.bdEsc = t.bdEsc ∧ s.bdSize = t.bdSize ∧ s.bdFrame = t.bdFrame := by
  obtain ⟨hsynced, hesc, hframe⟩ := RxbView.mk.inj h
  have hsize := congrArg List.length hframe
  rw [State.length_bdFrame, State.length_bdFrame] at hsize
  exact ⟨hsynced, hesc, BitVec.eq_of_toNat_eq hsize, hframe⟩

theorem BringsBytes.not_interrupts {h : Count} {o : Option ReadAnswer} (hb : BringsBytes h o) : interrupts o = false := by
  obtain ⟨a, rfl, hnone, hchunk, -⟩ := hb
  simp [interrupts, hnone, hchunk]

theorem runSteps_one {s u : State} (h : step s = .next u) : runSteps 1 s = .next u := runSteps_succ h

/-- A DEC_BLOCK that is answered with bytes only, and by none but listed answers, ends at the first verdict of the bytes
to come. -/
theorem ends_by_verdict {n : Nat} {s t : State} (hrun : s.running) (hbusy : s.busy = true) (hsupplied : s.supplied)
    (hsilent : s.laterReads = .silent) (ht : runSteps n s = .next t) (hidle : t.busy = false)
    (hfirst : ∀ k < n, ∀ u, runSteps k s = .next u → u.busy = true) :
    ∃ cs v, s.stream = cs ++ t.stream ∧ Yields (· = s.opCap.toNat) s.rxb cs [v] t.rxb ∧
      AddsReads [.response (v.response t.cacheCount)] s t := by
  induction n generalizing s with
  | zero =>
    cases ht
    exact nomatch hidle.symm.trans hbusy
  | succ n ih =>
    cases hstep : step s with
    | fault r => cases r
    | refused r => exact nomatch (runSteps_refused hstep).symm.trans ht
    | next u =>
      have hm := (step_busy hrun hbusy).symm.trans hstep
      have hp := decMicroStep_progress hbusy (fun _ _ => hsilent) hm
      rw [runSteps_succ hstep] at ht
      have later : u.busy = true → ∃ cs v, u.stream = cs ++ t.stream ∧
          Yields (· = s.opCap.toNat) u.rxb cs [v] t.rxb ∧ AddsReads [.response (v.response t.cacheCount)] u t := by
        intro hb
        obtain ⟨-, hcap, hhint, -, hlater, hrun'⟩ := decMicroStep_kept hm
        rw [← hcap]
        exact ih (hrun' hrun) hb (fun o ho => hhint ▸ hsupplied o (hp.answers_suffix.subset ho)) (hlater.trans hsilent)
          ht fun k hk w hw => hfirst (k + 1) (Nat.succ_lt_succ hk) w ((runSteps_succ hstep).trans hw)
      cases hp with
      | scanned c o stream view busy trace answers =>
        cases o with
        | none =>
          obtain ⟨cs, v, hcs, hy, hreads⟩ := later busy
          exact ⟨c :: cs, v, by rw [stream, hcs, List.cons_append], .quiet (fun cap hc => hc ▸ view) (by simp) hy,
            trace.trans hreads⟩
        | some v =>
          cases n with
          | zero =>
            cases ht
            exact ⟨[c], v, stream, .verdict (fun cap hc => hc ▸ view) (.done _), trace⟩
          | succ n => exact nomatch busy.symm.trans (hfirst 1 (by omega) u (runSteps_one hstep))
      | read stream view busy trace answers =>
        obtain ⟨cs, v, hcs, hy, hreads⟩ := later busy
        exact ⟨cs, v, stream ▸ hcs, view ▸ hy, trace.trans hreads⟩
      | interrupted o r stream view busy trace answers ends response =>
        have hbrings := hsupplied o (by simp [answers])
        exact nomatch hbrings.not_interrupts.symm.trans ends

/-- Settles O40: the first command ends at the first verdict of the bytes to come, and so does the second. -/
theorem chunkingDoesNotMatter : Obligations.ChunkingDoesNotMatter := by
  intro s₁ s₂ t₁ n₁ hrun₁ hrun₂ hsupplied₁ hsupplied₂ hsilent hpending hstream hbusy₁ hbusy₂ _ hcap hsynced hesc _ hframe
    ht₁ hidle₁ hfirst
  obtain ⟨cs, v, hcs, hy, new₁, htrace₁, hreads₁⟩ := ends_by_verdict hrun₁ hbusy₁ hsupplied₁ hsilent ht₁ hidle₁ hfirst
  have hview : s₁.rxb = s₂.rxb := by simp only [State.rxb, hsynced, hesc, hframe]
  have hserved : Served (· = s₁.opCap.toNat) s₂ := {
    running := hrun₂
    busy := hbusy₂
    answered := hpending
    capacity := by rw [hcap]
    within := fun o ho => by
      obtain ⟨a, ha, -, -, hduty⟩ := hsupplied₂ o ho
      exact ⟨a, ha, hduty⟩ }
  obtain ⟨t₂, r₂, cs', hend, hleft, ⟨hr, hy'⟩ | ⟨⟨o, ho, -⟩, hless, -⟩⟩ :=
    hserved.ends (Nat.le_refl _) (hstream.symm.trans hcs) (hview ▸ hy)
  case inr =>
    have hnone : s₂.interruptions = 0 := List.countP_eq_zero.2 fun o ho => by simp [(hsupplied₂ o ho).not_interrupts]
    omega
  obtain ⟨⟨n₂, ht₂⟩, -, hidle₂, -, -, -, -, new₂, htrace₂, hreads₂⟩ := hend
  obtain ⟨rfl, hviews⟩ := hy'.eq_of_nil
  obtain ⟨hsynced', hesc', hsize', hframe'⟩ := State.fields_of_rxb hviews.symm
  subst hr
  refine ⟨n₂, t₂, new₁, new₂, _, _, ht₂, hidle₂, htrace₁, htrace₂, fun x hx => ?_, by simp, by simp, rfl, rfl, hleft.symm,
    hsynced', hesc', hsize', hframe'⟩
  exact (List.mem_append.1 hx).elim (hreads₁ x) (hreads₂ x)

end Sys2Proof.Machine
end

section
/-! PROOFS. The statements on successive DEC_BLOCK commands (42_stream_reassembler.md R172): the cut of the stream does
not change their responses, and decode(encode(P)) = P. -/

namespace Sys2Proof.Machine

/-! ### An idle machine with DEC_BLOCK commands on its port -/

/-- The state in which the first of the DEC_BLOCK commands on the port has been accepted (R152). -/
def State.entered (d : Count × Count) (ds : List (Count × Count)) (s : State) : State :=
  { s with port := decBlocks ds, busy := true, opCap := clampOperand s.cfg d.1, opHint := clampOperand s.cfg d.2 }

theorem step_entered {s : State} {d : Count × Count} {ds : List (Count × Count)} (hrun : s.running)
    (hidle : s.busy = false) (hport : s.port = decBlocks (d :: ds)) : step s = .next (s.entered d ds) := by
  have hd : decode s.port = .command (.decBlock d.1 d.2) (decBlocks ds) :=
    decode_eq_command.2 ⟨rfl, hport.trans (List.flatMap_cons ..)⟩
  obtain ⟨hstep, -⟩ := stepRunsTheDecodedCommand s _ _ hrun.1 hidle hd
  exact hstep hrun.2

/-- The machine is idle, with these DEC_BLOCK commands on its port, each under a capacity of `K`, and every read listed is
answered within the hint of each of them. -/
structure Waiting (K : Nat → Prop) (ds : List (Count × Count)) (s : State) : Prop where
  running  : s.running
  idle     : s.busy = false
  answered : s.readPending = false
  port     : s.port = decBlocks ds
  capacity : ∀ d ∈ ds, K (min d.1.toNat s.cfg.bufSize)
  within   : s.answeredWithin ds

/-- The first command, once accepted, is served. -/
theorem Waiting.enter {K : Nat → Prop} {d : Count × Count} {ds : List (Count × Count)} {s : State}
    (h : Waiting K (d :: ds) s) : Served K (s.entered d ds) where
  running := h.running
  busy := rfl
  answered := h.answered
  capacity := by
    change K (clampOperand s.cfg d.1).toNat
    rw [toNat_clampOperand]
    exact h.capacity d List.mem_cons_self
  within := fun o ho => by
    obtain ⟨a, ha, hduty⟩ := h.within o ho
    refine ⟨a, ha, ?_⟩
    change a.chunk.length ≤ (clampOperand s.cfg d.2).toNat
    rw [toNat_clampOperand]
    exact hduty d List.mem_cons_self

/-- When the first command has ended, the others wait. -/
theorem Waiting.next {K : Nat → Prop} {d : Count × Count} {ds : List (Count × Count)} {s t : State} {r : Response}
    (h : Waiting K (d :: ds) s) (hend : Ended (s.entered d ds) t r) : Waiting K ds t where
  running := hend.running
  idle := hend.idle
  answered := hend.answered
  port := hend.port
  capacity := fun e he => by
    rw [hend.cfg]
    exact h.capacity e (List.mem_cons_of_mem d he)
  within := fun o ho => by
    obtain ⟨a, ha, hduty⟩ := h.within o (hend.answers.subset ho)
    exact ⟨a, ha, fun e he => hend.cfg ▸ hduty e (List.mem_cons_of_mem d he)⟩

/-! ### The run to the next verdict -/

/-- What the trace holds between two verdicts: reads, and the responses to answers that interrupt. -/
def Between (answers : List (Option ReadAnswer)) (x : TraceItem) : Prop :=
  x.isRead = true ∨ ∃ o ∈ answers, ∃ r, x = .response r ∧ Interruption o r

/-- From `s` a run leads to `t`, where the verdict `v` has just been given, behind `new`, and the commands that were not
needed still wait. -/
structure Gives (K : Nat → Prop) (ds : List (Count × Count)) (v : Verdict) (new : List TraceItem) (s t : State) :
    Prop where
  reaches : Reaches s t
  waiting : Waiting K (ds.drop (new.countP TraceItem.isResponse + 1)) t
  trace   : t.trace = s.trace ++ new ++ [.response (v.response t.cacheCount)]
  between : ∀ x ∈ new, Between s.readAnswers x
  spent   : new.countP TraceItem.isResponse + t.interruptions ≤ s.interruptions

theorem countP_reads {reads : List TraceItem} (h : ∀ x ∈ reads, x.isRead = true) :
    reads.countP TraceItem.isResponse = 0 :=
  List.countP_eq_zero.2 fun x hx => by simp [TraceItem.isResponse_of_isRead (h x hx)]

/-- With more commands than answers that interrupt, the next verdict of the bytes to come is given. -/
theorem Waiting.gives {K : Nat → Prop} {v : Verdict} {vs : List Verdict} {r' : RxbView} {post : List Byte}
    {ds : List (Count × Count)} {s : State} {pre : List Byte} (h : Waiting K ds s) (hstream : s.stream = pre ++ post)
    (hy : Yields K s.rxb pre (v :: vs) r') (hmore : s.interruptions < ds.length) :
    ∃ t new cs, Gives K ds v new s t ∧ t.stream = cs ++ post ∧ Yields K t.rxb cs vs r' := by
  induction ds generalizing s pre with
  | nil => exact absurd hmore (Nat.not_lt_zero _)
  | cons d ds ih =>
    have hstep := step_entered h.running h.idle h.port
    obtain ⟨t, r, cs, hend, hleft, hremains⟩ := h.enter.ends (Nat.le_refl _) hstream hy
    have hwaiting := h.next hend
    have hreaches : Reaches s t := .of_step hstep hend.reaches
    have hsuffix : t.readAnswers <:+ s.readAnswers := hend.answers
    have hfewer : t.interruptions ≤ s.interruptions := hsuffix.sublist.countP_le
    obtain ⟨reads, htrace, hreads⟩ := hend.trace
    have hnone := countP_reads hreads
    rcases hremains with ⟨hr, hy'⟩ | ⟨⟨o, ho, hinterruption⟩, hless, hy'⟩
    · exact ⟨t, reads, cs, ⟨hreaches, by simpa [hnone] using hwaiting, hr ▸ htrace, fun x hx => .inl (hreads x hx),
        by omega⟩, hleft, hy'⟩
    · have hless : t.interruptions < s.interruptions := hless
      obtain ⟨u, new, cs', hgives, hleft', hy''⟩ := ih hwaiting hleft hy' (by simp at hmore; omega)
      have hcount : (reads ++ [TraceItem.response r] ++ new).countP TraceItem.isResponse =
          new.countP TraceItem.isResponse + 1 := by
        simp [hnone, List.countP_cons, TraceItem.isResponse]
      have hspent := hgives.spent
      refine ⟨u, reads ++ [.response r] ++ new, cs', ⟨hreaches.trans hgives.reaches, ?_, ?_, ?_, by omega⟩, hleft', hy''⟩
      · rw [hcount]
        exact hgives.waiting
      · rw [hgives.trace, htrace]
        simp [State.entered]
      · intro x hx
        rw [List.mem_append, List.mem_append, List.mem_singleton] at hx
        rcases hx with (hx | rfl) | hx
        · exact .inl (hreads x hx)
        · exact .inr ⟨o, ho, r, rfl, hinterruption⟩
        · refine (hgives.between x hx).imp_right fun ⟨o', ho', hx'⟩ => ⟨o', hsuffix.subset ho', hx'⟩

/-! ### What the responses say about the stream (R172) -/

/-- The verdict as a response says it. -/
def Verdict.said (v : Verdict) : BitVec 4 × Count × List Byte := (v.status.code, count v.data.length, v.data)

theorem Verdict.response_verdict? (v : Verdict) (aux : Count) : (v.response aux).verdict? = some v.said := by
  have hcode : ¬(v.status.code = 0x2 ∨ v.status.code = 0x5) := by
    cases v <;> simp [Verdict.status, Status.code]
  rw [Response.verdict?, Verdict.response_status, if_neg hcode, Verdict.response_len]
  rfl

theorem verdicts_append (xs ys : List TraceItem) : verdicts (xs ++ ys) = verdicts xs ++ verdicts ys :=
  List.filterMap_append ..

theorem verdicts_response (v : Verdict) (aux : Count) : verdicts [.response (v.response aux)] = [v.said] := by
  simp [verdicts, TraceItem.response?, Verdict.response_verdict?]

theorem Interruption.verdict?_eq_none {o : Option ReadAnswer} {r : Response} (h : Interruption o r) :
    r.verdict? = none := by
  rcases h with rfl | ⟨hnone, -⟩
  · decide
  · exact hnone

theorem verdicts_between {answers : List (Option ReadAnswer)} {new : List TraceItem}
    (h : ∀ x ∈ new, Between answers x) : verdicts new = [] := by
  refine List.filterMap_eq_nil_iff.2 fun x hx => ?_
  rcases h x hx with hread | ⟨o, -, r, rfl, hr⟩
  · cases x <;> simp_all [TraceItem.isRead, TraceItem.response?]
  · exact hr.verdict?_eq_none

/-- With a command for each verdict and for each answer that interrupts, all the verdicts are given. -/
theorem Waiting.gives_all {K : Nat → Prop} {vs : List Verdict} {r' : RxbView} {post : List Byte}
    {ds : List (Count × Count)} {s : State} {pre : List Byte} (h : Waiting K ds s) (hstream : s.stream = pre ++ post)
    (hy : Yields K s.rxb pre vs r') (hmore : vs.length + s.interruptions ≤ ds.length) :
    ∃ t new, Reaches s t ∧ t.trace = s.trace ++ new ∧ verdicts new = vs.map Verdict.said := by
  induction vs generalizing s ds pre with
  | nil => exact ⟨s, [], ⟨0, rfl⟩, (List.append_nil _).symm, rfl⟩
  | cons v vs ih =>
    rw [List.length_cons] at hmore
    obtain ⟨t, new, cs, hgives, hleft, hy'⟩ := h.gives hstream hy (by omega)
    have hspent := hgives.spent
    obtain ⟨u, new', hreaches, htrace, hsaid⟩ := ih hgives.waiting hleft hy' (by rw [List.length_drop]; omega)
    refine ⟨u, new ++ [.response (v.response t.cacheCount)] ++ new', hgives.reaches.trans hreaches, ?_, ?_⟩
    · rw [htrace, hgives.trace]
      simp only [List.append_assoc]
    · rw [verdicts_append, verdicts_append, verdicts_between hgives.between, verdicts_response, hsaid]
      rfl

/-! ### The verdicts a run has given -/

/-- Only DEC_BLOCK commands of one effective capacity are given, and no read is answered behind the listed answers. -/
structure Given (cap : Nat) (ds : List (Count × Count)) (s : State) : Prop where
  running  : s.running
  silent   : s.laterReads = .silent
  port     : s.port = decBlocks ds
  capacity : ∀ d ∈ ds, min d.1.toNat s.cfg.bufSize = cap
  opCap    : s.busy = true → s.opCap.toNat = cap

/-- The verdicts among these trace items are those of a beginning of the bytes to come, and no more than `n`. -/
def Foretold (cap n : Nat) (s : State) (new : List TraceItem) : Prop :=
  ∃ pre post vs r', s.stream = pre ++ post ∧ Yields (· = cap) s.rxb pre vs r' ∧ vs.length ≤ n ∧
    verdicts new = vs.map Verdict.said

theorem Foretold.nil (cap n : Nat) (s : State) : Foretold cap n s [] :=
  ⟨[], s.stream, [], s.rxb, rfl, .done _, Nat.zero_le n, rfl⟩

/-- Items without a verdict, added where no byte was scanned. -/
theorem Foretold.same {cap n m : Nat} {s u : State} {first new : List TraceItem} (h : Foretold cap m u new)
    (hstream : u.stream = s.stream) (hview : u.rxb = s.rxb) (hfirst : verdicts first = []) (hle : m ≤ n) :
    Foretold cap n s (first ++ new) := by
  obtain ⟨pre, post, vs, r', hpre, hy, hlen, hsaid⟩ := h
  exact ⟨pre, post, vs, r', hstream ▸ hpre, hview ▸ hy, Nat.le_trans hlen hle,
    by rw [verdicts_append, hfirst, hsaid]; rfl⟩

/-- A byte scanned that gives no verdict. -/
theorem Foretold.quiet {cap n : Nat} {s u : State} {c : Byte} {new : List TraceItem} (h : Foretold cap n u new)
    (hstream : s.stream = c :: u.stream) (hview : s.rxb.scan cap c = (u.rxb, none)) : Foretold cap n s new := by
  obtain ⟨pre, post, vs, r', hpre, hy, hlen, hsaid⟩ := h
  by_cases hvs : vs = []
  · exact ⟨[], s.stream, [], s.rxb, rfl, .done _, Nat.zero_le n, by rw [hsaid, hvs]⟩
  · exact ⟨c :: pre, post, vs, r', by rw [hstream, hpre]; rfl, .quiet (fun _ hcap => hcap ▸ hview) hvs hy, hlen, hsaid⟩

/-- A byte scanned that gives a verdict. -/
theorem Foretold.verdict {cap n : Nat} {s u : State} {c : Byte} {v : Verdict} {aux : Count} {new : List TraceItem}
    (h : Foretold cap n u new) (hstream : s.stream = c :: u.stream) (hview : s.rxb.scan cap c = (u.rxb, some v)) :
    Foretold cap (n + 1) s ([.response (v.response aux)] ++ new) := by
  obtain ⟨pre, post, vs, r', hpre, hy, hlen, hsaid⟩ := h
  refine ⟨c :: pre, post, v :: vs, r', by rw [hstream, hpre]; rfl, .verdict (fun _ hcap => hcap ▸ hview) hy,
    Nat.succ_le_succ hlen, ?_⟩
  rw [verdicts_append, verdicts_response, hsaid]
  rfl

theorem verdicts_reads {reads : List TraceItem} (h : ∀ x ∈ reads, x.isRead = true) : verdicts reads = [] :=
  verdicts_between (answers := []) fun x hx => .inl (h x hx)

/-- What a micro-step adds to the trace is foretold where what comes behind it is: it takes the command's place in the
count where it ends the command. -/
theorem Progress.foretold {cap : Nat} {s u : State} (h : Progress s u) (hcap : s.opCap.toNat = cap) :
    ∃ first, u.trace = s.trace ++ first ∧
      ∀ n new, Foretold cap (n + u.busy.toNat) u new → Foretold cap (n + 1) s (first ++ new) := by
  cases h with
  | scanned c o stream view busy trace answers =>
    obtain ⟨reads, hu, hreads⟩ := trace
    rw [hcap] at view
    rw [busy]
    refine ⟨_, hu.trans (List.append_assoc ..), fun n new hnew => ?_⟩
    rw [List.append_assoc]
    cases o with
    | none => exact (hnew.quiet stream view).same rfl rfl (verdicts_reads hreads) (Nat.le_refl _)
    | some v => exact (hnew.verdict stream view).same rfl rfl (verdicts_reads hreads) (Nat.le_refl _)
  | read stream view busy trace answers =>
    obtain ⟨reads, hu, hreads⟩ := trace
    rw [busy]
    exact ⟨reads, hu.trans (List.append_nil _),
      fun n new hnew => hnew.same stream view (verdicts_reads hreads) (Nat.le_refl _)⟩
  | interrupted o r stream view busy trace answers ends response =>
    obtain ⟨reads, hu, hreads⟩ := trace
    have hsilent : verdicts (reads ++ [.response r]) = [] := by
      refine verdicts_between (answers := [o]) fun x hx => (List.mem_append.1 hx).imp (hreads x) fun hlast => ?_
      exact ⟨o, List.mem_singleton_self o, r, List.mem_singleton.1 hlast, response⟩
    rw [busy]
    exact ⟨_, hu.trans (List.append_assoc ..), fun n new hnew => hnew.same stream view hsilent (Nat.le_succ n)⟩

/-- What a step adds to the trace is foretold where what comes behind it is. -/
theorem Given.step_foretold {cap : Nat} {ds : List (Count × Count)} {s u : State} (h : Given cap ds s)
    (hstep : step s = .next u) :
    ∃ es first, Given cap es u ∧ u.trace = s.trace ++ first ∧
      ∀ new, Foretold cap (es.length + u.busy.toNat) u new →
        Foretold cap (ds.length + s.busy.toNat) s (first ++ new) := by
  cases hbusy : s.busy with
  | false =>
    cases ds with
    | nil =>
      cases (finishedRunStaysAsItIs s h.running ⟨hbusy, h.port⟩).symm.trans hstep
      exact ⟨[], [], h, (List.append_nil _).symm, fun new hnew => by simpa [hbusy] using hnew⟩
    | cons d ds =>
      cases (step_entered h.running hbusy h.port).symm.trans hstep
      refine ⟨ds, [], ⟨h.running, h.silent, rfl, ?_, fun _ => ?_⟩, (List.append_nil _).symm, fun new hnew =>
        hnew.same (first := []) rfl rfl rfl (Nat.le_refl _)⟩
      · exact fun e he => h.capacity e (List.mem_cons_of_mem d he)
      · exact (toNat_clampOperand s.cfg d.1).trans (h.capacity d List.mem_cons_self)
  | true =>
    have hm := (step_busy h.running hbusy).symm.trans hstep
    obtain ⟨hcfg, hcap, -, hport, hlater, hrun⟩ := decMicroStep_kept hm
    obtain ⟨first, htrace, hfirst⟩ :=
      (decMicroStep_progress hbusy (fun _ _ => h.silent) hm).foretold (h.opCap hbusy)
    exact ⟨ds, first, ⟨hrun h.running, hlater.trans h.silent, hport.trans h.port, hcfg ▸ h.capacity,
      fun _ => hcap ▸ h.opCap hbusy⟩, htrace, hfirst ds.length⟩

/-- After any number of steps, what the trace has gained is foretold, and no more verdicts than commands were accepted. -/
theorem Given.foretold {cap n : Nat} {ds : List (Count × Count)} {s t : State} (h : Given cap ds s)
    (ht : runSteps n s = .next t) :
    ∃ new, t.trace = s.trace ++ new ∧ Foretold cap (ds.length + s.busy.toNat) s new := by
  induction n generalizing s ds with
  | zero =>
    cases ht
    exact ⟨[], (List.append_nil _).symm, .nil ..⟩
  | succ n ih =>
    cases hstep : step s with
    | fault r => cases r
    | refused r => exact nomatch (runSteps_refused hstep).symm.trans ht
    | next u =>
      obtain ⟨es, first, hgiven, hu, hfirst⟩ := h.step_foretold hstep
      obtain ⟨new, htrace, hnew⟩ := ih hgiven ((runSteps_succ hstep).symm.trans ht)
      exact ⟨first ++ new, by rw [htrace, hu, List.append_assoc], hfirst new hnew⟩

/-- Settles O41: what the first machine has said is foretold by the bytes to come, and the second comes to say it. -/
theorem fragmentationDoesNotMatter : Obligations.FragmentationDoesNotMatter := by
  intro s₁ s₂ ds₁ ds₂ cap hrun₁ hrun₂ hidle₁ hidle₂ _ hpending hcfg hsynced hesc _ hframe hport₁ hport₂ hcaps _ hwithin
    hsilent hstream hmore n₁ t₁ ht₁
  have hview : s₁.rxb = s₂.rxb := by simp only [State.rxb, hsynced, hesc, hframe]
  have hgiven : Given (min cap.toNat s₁.cfg.bufSize) ds₁ s₁ := {
    running := hrun₁
    silent := hsilent
    port := hport₁
    capacity := fun d hd => by rw [hcaps d (List.mem_append_left _ hd)]
    opCap := fun hb => nomatch hidle₁.symm.trans hb }
  have hwaiting : Waiting (· = min cap.toNat s₁.cfg.bufSize) ds₂ s₂ := {
    running := hrun₂
    idle := hidle₂
    answered := hpending
    port := hport₂
    capacity := fun d hd => by rw [hcaps d (List.mem_append_right _ hd), hcfg]
    within := hwithin }
  obtain ⟨new₁, htrace₁, pre, post, vs, r', hpre, hy, hlen, hsaid₁⟩ := hgiven.foretold ht₁
  rw [hidle₁] at hlen
  have hcommands : vs.length + s₂.interruptions ≤ ds₂.length := Nat.le_trans (Nat.add_le_add_right hlen _) hmore
  obtain ⟨t₂, new₂, ⟨n₂, ht₂⟩, htrace₂, hsaid₂⟩ := hwaiting.gives_all (hstream.symm.trans hpre) (hview ▸ hy) hcommands
  exact ⟨n₂, t₂, new₁, new₂, ht₂, htrace₁, htrace₂, hsaid₁.trans hsaid₂.symm⟩

/-! ### decode(encode(P)) = P (R172 (b)) -/

/-- Synchronised and NORMAL, with these bytes held. -/
abbrev RxbView.holding (held : List Byte) : RxbView := ⟨true, .normal, held⟩

/-- A byte stored while synchronised below the capacity. -/
theorem RxbView.scan_store {cap : Nat} {e : EscState} {c b : Byte} {held : List Byte}
    (hc : (escStep e c).1 = .store b) (hfit : held.length < cap) :
    RxbView.scan cap c ⟨true, e, held⟩ = (.holding (held ++ [b]), none) := by
  simp [RxbView.scan, RxbView.act, hc, Nat.not_le.2 hfit]

/-- The escape of a payload byte stores the byte, under every capacity that has room for it. -/
theorem Yields.esc_append {n : Nat} {b : Byte} {held cs : List Byte} {vs : List Verdict} {r' : RxbView} (hvs : vs ≠ [])
    (hfit : held.length < n) (h : Yields (n ≤ ·) (.holding (held ++ [b])) cs vs r') :
    Yields (n ≤ ·) (.holding held) (esc b ++ cs) vs r' := by
  have store : ∀ (e : EscState) (c : Byte), (escStep e c).1 = .store b → Yields (n ≤ ·) ⟨true, e, held⟩ (c :: cs) vs r' :=
    fun e c hc => .quiet (fun cap hcap => RxbView.scan_store hc (Nat.lt_of_lt_of_le hfit hcap)) hvs h
  have escaped : ∀ c : Byte, (escStep .escaped c).1 = .store b →
      Yields (n ≤ ·) (.holding held) (0xDB :: c :: cs) vs r' :=
    fun c hc => .quiet (fun _ _ => rfl) hvs (store .escaped c hc)
  rcases esc_cases b with ⟨rfl, he⟩ | ⟨rfl, he⟩ | ⟨hend, hesc, he⟩ <;> rw [he]
  · exact escaped 0xDC rfl
  · exact escaped 0xDD rfl
  · exact store .normal b (escStep_store (.inl ⟨rfl, hend, hesc, rfl⟩))

/-- An escaped payload stores the payload, under every capacity that has room for it. -/
theorem Yields.escAll_append {n : Nat} {q held cs : List Byte} {vs : List Verdict} {r' : RxbView} (hvs : vs ≠ [])
    (hfit : (held ++ q).length ≤ n) (h : Yields (n ≤ ·) (.holding (held ++ q)) cs vs r') :
    Yields (n ≤ ·) (.holding held) (escAll q ++ cs) vs r' := by
  induction q generalizing held with
  | nil => simpa [escAll] using h
  | cons b q ih =>
    rw [escAll, List.append_assoc]
    simp only [List.length_append, List.length_cons] at hfit
    exact .esc_append hvs (by omega) (ih (by simp; omega) (by simpa using h))

/-- From hunting, the wire frame of a payload gives the payload's frame, under every capacity that has room for it. -/
theorem yields_frame (p : List Byte) :
    Yields (p.length ≤ ·) ⟨false, .normal, []⟩ (frame p) [.frame p] (.holding []) := by
  have returned : Yields (p.length ≤ ·) (.holding p) [byteEnd] [.frame p] (.holding []) :=
    .verdict (fun cap hcap => by simp [RxbView.scan, RxbView.act, escStep, Nat.not_lt.2 hcap]) (.done _)
  have stored : Yields (p.length ≤ ·) (.holding []) (escAll p ++ [byteEnd]) [.frame p] (.holding []) :=
    .escAll_append (by simp) (by simp) returned
  exact .quiet (fun _ _ => rfl) (by simp) (.quiet (fun _ _ => rfl) (by simp) stored)

/-- Where no answer carries an error, what stands between two verdicts is reads and NO_DATA. -/
theorem Between.read_or_noData {answers : List (Option ReadAnswer)} {x : TraceItem} (h : Between answers x)
    (hnone : ∀ o ∈ answers, ∀ a, o = some a → a.err = none) :
    x.isRead = true ∨ x = answered 0x20000000 [] none := by
  rcases h with hread | ⟨o, ho, r, rfl, rfl | ⟨-, a, ha, herr⟩⟩
  · exact .inl hread
  · exact .inr rfl
  · exact absurd (hnone o ho a ha) herr

/-- Settles O38: the wire frame's one verdict is the payload's frame. -/
theorem decodeOfEncodeReturnsThePayload : Obligations.DecodeOfEncodeReturnsThePayload := by
  intro s ds p hrun hidle hpending hhunt hsize hesc hport hcaps hwithin hnone hmore hstream
  have hview : s.rxb = ⟨false, .normal, []⟩ := by simp [State.rxb, hhunt, hesc, State.bdFrame, hsize]
  have hwaiting : Waiting (p.length ≤ ·) ds s := ⟨hrun, hidle, hpending, hport, hcaps, hwithin⟩
  obtain ⟨t, new, cs, hgives, hleft, hy⟩ :=
    hwaiting.gives (hstream.trans (List.append_nil _).symm) (hview ▸ yields_frame p) hmore
  obtain ⟨rfl, hview'⟩ := hy.eq_of_nil
  obtain ⟨⟨n, ht⟩, hrest, htrace, hbetween, hspent⟩ := hgives
  obtain ⟨hcache, -⟩ := List.append_eq_nil_iff.1 hleft
  have hheld : t.rxb.held = [] := congrArg RxbView.held hview'
  have hempty : t.bdSize = 0 := BitVec.eq_of_toNat_eq (by rw [← State.length_held, hheld]; rfl)
  refine ⟨n, t, new, new.countP TraceItem.isResponse, ht, hrest.idle, congrArg RxbView.synced hview', hempty, hcache,
    Nat.le_trans (Nat.le_add_right ..) hspent, hrest.port, ?_, fun x hx => (hbetween x hx).read_or_noData hnone, rfl⟩
  rw [htrace, State.cacheCount, hcache]
  rfl

end Sys2Proof.Machine
end

section
/-! PROOFS. The statements on the incremental decoder (43_incremental_decoder.md R190 to R200): DEC_FEED of one byte, the
frames any step delivers, and DEC_FEED of the bytes of a wire frame, one after another. -/

namespace Sys2Proof.Machine

/-! ### DEC_FEED of one byte (R191 to R195) -/

/-- DEC_FEED performs the action the table gives for its byte (R191). -/
theorem exec_decFeed {s : State} {c : Byte} {a : Action} (ha : (escStep s.idState c).1 = a) :
    exec (.decFeed c) s = .next (feedAction a s) := by
  subst ha
  exact execDecFeed_eq c s

/-- The events of a boundary: the held bytes, where they are at least MIN_FRAME (R194). -/
def delivered (p : List Byte) : List TraceItem := if 2 ≤ p.length then [.rxFrame p] else []

theorem rxFrame_mem_delivered {p q : List Byte} : .rxFrame p ∈ delivered q ↔ 2 ≤ p.length ∧ p = q := by
  by_cases h : 2 ≤ q.length
  · rw [delivered, if_pos h, List.mem_singleton, TraceItem.rxFrame.injEq]
    exact ⟨fun he => ⟨he ▸ h, he⟩, And.right⟩
  · rw [delivered, if_neg h]
    exact ⟨(fun hmem => nomatch hmem), fun ⟨hp, he⟩ => absurd (he ▸ hp) h⟩

/-- A boundary written out: the delivery, the response, and RXI NORMAL and empty (R194). -/
theorem feedBoundary_eq (s : State) :
    feedBoundary s =
      { s with
        busy := false, idSize := 0, idState := .normal
        trace := s.trace ++ delivered s.idFrame ++ [answeredOk] } := by
  simp only [delivered, State.length_idFrame]
  by_cases h : 2 ≤ s.idSize.toNat
  · rw [feedBoundary_deliver h, if_pos h]; rfl
  · rw [feedBoundary_drop h, if_neg h, List.append_nil]; rfl

/-- An END met in NORMAL is a boundary (R113). -/
theorem escStep_end {e : EscState} (h : e = .normal) : (escStep e 0xC0).1 = .boundary := by
  subst h; rfl

/-- Settles O21: END is a boundary. -/
theorem feedEndDeliversTheFrame : Obligations.FeedEndDeliversTheFrame := by
  intro s hnormal
  rw [exec_decFeed (escStep_end hnormal), ← State.length_idFrame]
  exact congrArg Host.Outcome.next (feedBoundary_eq s)

/-- Settles O23: the byte is a bad escape, and the next END a boundary of an empty frame. -/
theorem feedBadEscapeDiscardsTheFrame : Obligations.FeedBadEscapeDiscardsTheFrame := by
  intro s c hescaped hend hesc
  obtain ⟨-, -, -, -, -, hbad⟩ := escapeTransitionTable
  have ha : (escStep s.idState c).1 = .badEscape := by rw [hescaped, hbad c hend hesc]
  refine ⟨feedBadEscape s, exec_decFeed ha, rfl, ?_⟩
  have hdrop : ¬Config.minFrame ≤ (feedBadEscape s).idSize.toNat := by
    change ¬2 ≤ 0
    decide
  rw [exec_decFeed (escStep_end rfl)]
  exact congrArg Host.Outcome.next (feedBoundary_drop hdrop)

/-- Below BUF_SIZE the frame's size grows by one: the count does not wrap. -/
theorem State.toNat_idSize_idAppend {s : State} (v : Byte) (h : s.idSize.toNat < s.cfg.bufSize) :
    (s.idAppend v).idSize.toNat = s.idSize.toNat + 1 :=
  toNat_count_of_le s.cfg h

/-- Settles O22: the byte is an escape or a store, and a store fits or meets a full buffer. -/
theorem feedEscapesStoresOrOverflows : Obligations.FeedEscapesStoresOrOverflows := by
  refine ⟨fun s hnormal => exec_decFeed (a := .enterEsc) (by rw [hnormal]; rfl), fun s c v hstands => ?_⟩
  have hexec : exec (.decFeed c) s = .next (feedStore v s) := exec_decFeed (escStep_store hstands)
  refine ⟨fun hroom => ?fits, fun hfull => ?full⟩
  case fits =>
    have hroom' : ({ s with idState := .normal } : State).idSize.toNat < s.cfg.bufSize := hroom
    rw [feedStore_fits v (Nat.ne_of_lt hroom)] at hexec
    exact ⟨_, hexec, rfl, State.toNat_idSize_idAppend v hroom', State.idFrame_idAppend v hroom',
      fun a ha => Memory.byte_append_outside .id s.idBuf s.idSize.toNat [v] (by simp; omega)⟩
  case full =>
    rw [hexec, feedStore_full v hfull]
    rfl

/-! ### The frames a step delivers (R194, R196) -/

/-- An event among the items added is in what stands before the response. -/
theorem AddsResponse.mem_rxFrame {before : List TraceItem} {s t : State} {p : List Byte} (h : AddsResponse before s t)
    (hp : .rxFrame p ∈ t.trace) : .rxFrame p ∈ s.trace ∨ .rxFrame p ∈ before := by
  obtain ⟨r, htrace⟩ := h
  simpa [htrace] using hp

/-- Of DEC_FEED's actions a boundary delivers, and it delivers the held bytes where there are at least 2. -/
theorem feedAction_rxFrame {a : Action} {s : State} {p : List Byte} (hp : .rxFrame p ∈ (feedAction a s).trace) :
    .rxFrame p ∈ s.trace ∨ (2 ≤ p.length ∧ p = s.idFrame) := by
  cases a with
  | boundary =>
    rw [← rxFrame_mem_delivered]
    simpa [feedAction, feedBoundary_eq] using hp
  | enterEsc => exact .inl (by simpa [feedAction, feedEnterEsc] using hp)
  | store v =>
    simp only [feedAction] at hp
    by_cases h : s.idSize.toNat = s.cfg.bufSize
    · rw [feedStore_full v h] at hp; exact .inl (by simpa using hp)
    · rw [feedStore_fits v h] at hp; exact .inl (by simpa using hp)
  | badEscape => exact .inl (by simpa [feedAction, feedBadEscape] using hp)

/-- Of the commands DEC_FEED delivers; what the others add is their response, behind a TxFrame or a write. -/
theorem exec_rxFrame {i : Instr} {s t : State} {p : List Byte} (h : exec i s = .next t) (hp : .rxFrame p ∈ t.trace) :
    .rxFrame p ∈ s.trace ∨ (2 ≤ p.length ∧ p = s.idFrame) := by
  cases i with
  | decFeed c =>
    cases (execDecFeed_eq c s).symm.trans h
    exact feedAction_rxFrame hp
  | encPut b =>
    cases (execEncPut_eq b s).symm.trans h
    exact .inl (((putAction_trace (s.putBytes b) s).mem_rxFrame hp).resolve_right (by simp))
  | encEnd =>
    cases (execEncEnd_eq s).symm.trans h
    rcases endAction_trace s.endBytes s with hadds | hadds
    · exact .inl ((hadds.mem_rxFrame hp).resolve_right (by simp))
    · exact .inl ((hadds.mem_rxFrame hp).resolve_right (by simp))
  | encBlock len q =>
    rcases execEncBlock_trace h with hadds | ⟨n, err, hadds⟩
    · exact .inl ((hadds.mem_rxFrame hp).resolve_right (by simp))
    · exact .inl ((hadds.mem_rxFrame hp).resolve_right (by simp))
  | decBlock cap hint =>
    cases h
    exact .inl hp

/-- A micro-step delivers nothing: it adds reads and a response. -/
theorem decMicroStep_rxFrame {s t : State} {p : List Byte} (hbusy : s.busy = true) (h : decMicroStep s = .next t)
    (hp : .rxFrame p ∈ t.trace) : .rxFrame p ∈ s.trace := by
  obtain ⟨reads, hreads, hend⟩ := decMicroStep_answers hbusy h
  have hnot : .rxFrame p ∉ reads := fun hmem => nomatch hreads _ hmem
  rcases hend with ⟨-, htrace⟩ | ⟨-, r, htrace, -⟩
  · simpa [htrace, hnot] using hp
  · simpa [htrace, hnot] using hp

/-- Settles O24, by cases on what the step does. -/
theorem deliveredFramesHaveAtLeastTwoBytes : Obligations.DeliveredFramesHaveAtLeastTwoBytes := by
  intro s t p hstep hp
  rcases step_cases hstep with
    ⟨later, -, rfl⟩ | ⟨-, -, resets, ⟨hbusy, hm⟩ | ⟨-, ⟨-, rfl⟩ | ⟨i, rest, -, he⟩ | ⟨w, rest, -, rfl⟩⟩⟩
  · exact .inl hp
  · exact .inl (decMicroStep_rxFrame (s := { s with resetIn := resets }) hbusy hm hp)
  · exact .inl hp
  · exact exec_rxFrame (s := { s with resetIn := resets, port := rest }) he hp
  · exact .inl (by simpa using hp)

/-! ### DEC_FEED of one byte after another -/

/-- Feeding the bytes `cs`, one command each, leads from `s` to `t` and adds `new` to the trace. -/
structure Feeds (cs : List Byte) (new : List TraceItem) (s t : State) : Prop where
  run   : execAll (cs.map .decFeed) s = .next t
  trace : t.trace = s.trace ++ new
  cfg   : t.cfg = s.cfg

theorem execAll_append {is js : List Instr} {s u : State} (h : execAll is s = .next u) :
    execAll (is ++ js) s = execAll js u := by
  induction is generalizing s with
  | nil => cases h; rfl
  | cons i is ih =>
    cases hi : exec i s with
    | next v =>
      rw [execAll_cons hi] at h
      exact (execAll_cons hi).trans (ih h)
    | fault r => cases r
    | refused r => simp only [execAll, hi] at h; cases h

theorem Feeds.nil (s : State) : Feeds [] [] s s := ⟨rfl, (List.append_nil _).symm, rfl⟩

theorem Feeds.append {cs ds : List Byte} {new more : List TraceItem} {s u t : State} (h : Feeds cs new s u)
    (h' : Feeds ds more u t) : Feeds (cs ++ ds) (new ++ more) s t where
  run := by rw [List.map_append, execAll_append h.run, h'.run]
  trace := by rw [h'.trace, h.trace, List.append_assoc]
  cfg := h'.cfg.trans h.cfg

/-- One byte fed performs its action. -/
theorem Feeds.action {s : State} {c : Byte} {a : Action} {new : List TraceItem} (ha : (escStep s.idState c).1 = a)
    (htrace : (feedAction a s).trace = s.trace ++ new) : Feeds [c] new s (feedAction a s) where
  run := execAll_cons (exec_decFeed ha)
  trace := htrace
  cfg := by rw [feedAction_frame]

/-- RXI is NORMAL and holds the bytes `q`. -/
structure RxiHolds (q : List Byte) (s : State) : Prop where
  normal : s.idState = .normal
  frame  : s.idFrame = q

theorem RxiHolds.toNat_idSize {q : List Byte} {s : State} (h : RxiHolds q s) : s.idSize.toNat = q.length := by
  rw [← h.frame, State.length_idFrame]

theorem rxiHolds_nil_iff {s : State} : RxiHolds [] s ↔ s.idState = .normal ∧ s.idSize = 0 where
  mp h := ⟨h.normal, BitVec.eq_of_toNat_eq h.toNat_idSize⟩
  mpr h := ⟨h.1, by simp [State.idFrame, h.2]⟩

/-- An END delivers the held bytes and leaves RXI empty (R194). -/
theorem RxiHolds.feeds_end {q : List Byte} {s : State} (h : RxiHolds q s) :
    ∃ t, Feeds [0xC0] (delivered q ++ [answeredOk]) s t ∧ RxiHolds [] t := by
  refine ⟨feedBoundary s, .action (a := .boundary) (escStep_end h.normal) ?_, rfl, rfl⟩
  rw [feedAction, feedBoundary_eq, h.frame, List.append_assoc]

/-- The escape of a byte `b` ends in a byte that the table stores as `b`; an ESC before it is answered OK and stores
nothing (R192). -/
theorem RxiHolds.feeds_to_store {q : List Byte} {s : State} (h : RxiHolds q s) (b : Byte) :
    ∃ before c u, esc b = before ++ [c] ∧ Feeds before (List.replicate before.length answeredOk) s u ∧
      u.idFrame = q ∧ (escStep u.idState c).1 = .store b := by
  have henter : Feeds [0xDB] [answeredOk] s (feedEnterEsc s) :=
    .action (a := .enterEsc) (by rw [h.normal]; rfl) rfl
  rcases esc_cases b with ⟨rfl, he⟩ | ⟨rfl, he⟩ | ⟨hend, hesc, he⟩
  · exact ⟨[0xDB], 0xDC, feedEnterEsc s, he, henter, h.frame, rfl⟩
  · exact ⟨[0xDB], 0xDD, feedEnterEsc s, he, henter, h.frame, rfl⟩
  · exact ⟨[], b, s, he, .nil s, h.frame, escStep_store (.inl ⟨h.normal, hend, hesc, rfl⟩)⟩

/-- An escaped byte that fits goes to the end of the held bytes, every wire byte of it answered OK (R192). -/
theorem RxiHolds.feeds_esc {q : List Byte} {s : State} (h : RxiHolds q s) (b : Byte)
    (hroom : q.length < s.cfg.bufSize) :
    ∃ t, Feeds (esc b) (List.replicate (esc b).length answeredOk) s t ∧ RxiHolds (q ++ [b]) t := by
  obtain ⟨before, c, u, he, hbefore, rfl, hc⟩ := h.feeds_to_store b
  have hroom' : ({ u with idState := .normal } : State).idSize.toNat < u.cfg.bufSize := by
    rw [hbefore.cfg]; simpa using hroom
  have hfits : feedStore b u = State.respondOk (State.idAppend b { u with idState := .normal }) :=
    feedStore_fits b (Nat.ne_of_lt hroom')
  refine ⟨feedStore b u, ?_, by rw [hfits]; rfl, by rw [hfits]; exact State.idFrame_idAppend b hroom'⟩
  rw [he, List.length_append, ← List.replicate_append_replicate]
  exact hbefore.append (.action (a := .store b) hc (by rw [feedAction, hfits]; rfl))

/-- An escaped byte that meets a full buffer is answered BUFFER_OVERFLOW at its last wire byte, and leaves RXI empty
(R193). -/
theorem RxiHolds.feeds_esc_full {q : List Byte} {s : State} (h : RxiHolds q s) (b : Byte)
    (hfull : q.length = s.cfg.bufSize) :
    ∃ t, Feeds (esc b) (List.replicate ((esc b).length - 1) answeredOk ++ [answered 0x30000000 [] none]) s t ∧
      RxiHolds [] t := by
  obtain ⟨before, c, u, he, hbefore, rfl, hc⟩ := h.feeds_to_store b
  have hfull' : feedStore b u = State.raise .bufferOverflow { u with idState := .normal, idSize := 0 } :=
    feedStore_full b (by rw [hbefore.cfg, ← hfull, State.length_idFrame])
  refine ⟨feedStore b u, ?_, by rw [hfull']; rfl, by rw [hfull']; rfl⟩
  rw [he, List.length_append, List.length_singleton, Nat.add_sub_cancel]
  exact hbefore.append (.action (a := .store b) hc (by rw [feedAction, hfull']; rfl))

/-- An escaped payload that fits goes to the end of the held bytes, every wire byte of it answered OK. -/
theorem RxiHolds.feeds_escAll {q : List Byte} {s : State} (h : RxiHolds q s) (p : List Byte)
    (hfit : q.length + p.length ≤ s.cfg.bufSize) :
    ∃ t, Feeds (escAll p) (List.replicate (escAll p).length answeredOk) s t ∧ RxiHolds (q ++ p) t := by
  induction p generalizing q s with
  | nil => exact ⟨s, .nil s, by rwa [List.append_nil]⟩
  | cons b p ih =>
    rw [List.length_cons] at hfit
    obtain ⟨u, hfirst, hu⟩ := h.feeds_esc b (by omega)
    obtain ⟨t, hrest, ht⟩ := ih hu (by rw [hfirst.cfg, List.length_append, List.length_singleton]; omega)
    refine ⟨t, ?_, by simpa using ht⟩
    rw [escAll, List.length_append, ← List.replicate_append_replicate]
    exact hfirst.append hrest

/-- An escaped payload and an END deliver what was held and the payload. -/
theorem RxiHolds.feeds_escAll_end {q : List Byte} {s : State} (h : RxiHolds q s) (p : List Byte)
    (hfit : q.length + p.length ≤ s.cfg.bufSize) :
    ∃ t, Feeds (escAll p ++ [0xC0])
        (List.replicate (escAll p).length answeredOk ++ (delivered (q ++ p) ++ [answeredOk])) s t ∧
      RxiHolds [] t := by
  obtain ⟨u, hpayload, hu⟩ := h.feeds_escAll p hfit
  obtain ⟨t, hend, ht⟩ := hu.feeds_end
  exact ⟨t, hpayload.append hend, ht⟩

/-- From empty, they deliver the payload. -/
theorem RxiHolds.feeds_escAll_end_of_empty {s : State} (h : RxiHolds [] s) {p : List Byte}
    (hfit : p.length ≤ s.cfg.bufSize) :
    ∃ t, Feeds (escAll p ++ [0xC0]) (List.replicate (escAll p).length answeredOk ++ (delivered p ++ [answeredOk])) s t ∧
      RxiHolds [] t :=
  h.feeds_escAll_end p (by simpa using hfit)

/-- The preamble ends what was held and the FLUSH, which is fed as a payload byte that stands for itself (R200). -/
theorem RxiHolds.feeds_preamble {q : List Byte} {s : State} (h : RxiHolds q s) (hroom : q.length < s.cfg.bufSize) :
    ∃ t, Feeds [0xFF, 0xC0] (List.replicate 1 answeredOk ++ (delivered (q ++ [0xFF]) ++ [answeredOk])) s t ∧
      RxiHolds [] t :=
  h.feeds_escAll_end [0xFF] hroom

/-- From empty, the preamble delivers nothing: the FLUSH alone is shorter than MIN_FRAME. -/
theorem RxiHolds.feeds_preamble_of_empty {s : State} (h : RxiHolds [] s) :
    ∃ t, Feeds [0xFF, 0xC0] (List.replicate 2 answeredOk) s t ∧ RxiHolds [] t :=
  h.feeds_preamble (Nat.lt_of_lt_of_le (by decide) s.cfg.four_le)

/-! ### DEC_FEED of a wire frame (R200) -/

/-- Of what feeding up to an END adds to the trace, the frames delivered are the one of at least 2 bytes. -/
theorem filterMap_rxFrame?_delivered (n : Nat) {p : List Byte} (h : 2 ≤ p.length) :
    (List.replicate n answeredOk ++ (delivered p ++ [answeredOk])).filterMap TraceItem.rxFrame? = [p] := by
  rw [delivered, if_pos h]
  simp [List.filterMap_replicate, TraceItem.rxFrame?]

/-- Settles O25: the preamble's END delivers the leftover bytes with the FLUSH, and nothing where there are none; the
trailing END delivers the payload. -/
theorem feedingAWireFrameDeliversThePayload : Obligations.FeedingAWireFrameDeliversThePayload := by
  intro s p hnormal hfit
  refine ⟨fun hsize => ?empty, fun hpos hroom hlen => ?leftover⟩
  case empty =>
    obtain ⟨u, hpre, hu⟩ := (rxiHolds_nil_iff.2 ⟨hnormal, hsize⟩).feeds_preamble_of_empty
    obtain ⟨t, hrest, ht⟩ := hu.feeds_escAll_end_of_empty (hpre.cfg ▸ hfit)
    obtain ⟨hnormal', hsize'⟩ := rxiHolds_nil_iff.1 ht
    have hfeeds := hpre.append hrest
    refine ⟨t, hfeeds.run, hnormal', hsize', ?_⟩
    have hlen : (frame p).length - 1 = 2 + (escAll p).length := by rw [length_frame]; omega
    rw [hfeeds.trace, hlen, ← List.replicate_append_replicate]
    simp only [List.append_assoc, delivered]
  case leftover =>
    have hs : RxiHolds s.idFrame s := ⟨hnormal, rfl⟩
    obtain ⟨u, hpre, hu⟩ := hs.feeds_preamble (by simpa using hroom)
    obtain ⟨t, hrest, -⟩ := hu.feeds_escAll_end_of_empty (hpre.cfg ▸ hfit)
    have hfeeds := hpre.append hrest
    refine ⟨t, _, hfeeds.run, hfeeds.trace, ?_⟩
    have hflushed : 2 ≤ (s.idFrame ++ [0xFF]).length := by simp; omega
    rw [List.filterMap_append, filterMap_rxFrame?_delivered 1 hflushed, filterMap_rxFrame?_delivered _ hlen]
    rfl

/-- Settles O26: the payload fills the buffer, and the byte behind it meets it full. -/
theorem feedingAnOversizedFrameOverflows : Obligations.FeedingAnOversizedFrameOverflows := by
  intro s p b hnormal hsize hlen
  rw [← escAll_eq_flatten]
  obtain ⟨u, hpre, hu⟩ := (rxiHolds_nil_iff.2 ⟨hnormal, hsize⟩).feeds_preamble_of_empty
  obtain ⟨v, hpayload, hv⟩ := hu.feeds_escAll p (by rw [hpre.cfg, hlen]; simp)
  obtain ⟨t, hlast, ht⟩ := hv.feeds_esc_full b (by rw [hpayload.cfg, hpre.cfg]; simpa using hlen)
  obtain ⟨hnormal', hsize'⟩ := rxiHolds_nil_iff.1 ht
  have hfeeds := (hpre.append hpayload).append hlast
  refine ⟨t, hfeeds.run, hnormal', hsize', ?_⟩
  have hpos : 0 < (esc b).length := List.length_pos_iff.2 (esc_ne_nil b)
  have hcount : ([0xFF, 0xC0] ++ escAll p ++ esc b).length - 1 = 2 + (escAll p).length + ((esc b).length - 1) := by
    simp; omega
  rw [hfeeds.trace, hcount, ← List.replicate_append_replicate, ← List.replicate_append_replicate]
  simp only [List.append_assoc]

end Sys2Proof.Machine
end

section
/-! PROOFS. The statements on the incremental encoder (44_incremental_encoder.md R210 to R220): ENC_PUT and ENC_END,
each where its bytes fit and where they do not, and a payload put byte by byte and closed. -/

namespace Sys2Proof.Machine

/-! ### ENC_PUT and ENC_END, each way (R211 to R217) -/

theorem exec_encPut_fits {s : State} {b : Byte} (h : s.teSize.toNat + (s.putBytes b).length ≤ s.cfg.bufSize) :
    exec (.encPut b) s = .next (s.teAppend (s.putBytes b)).respondOk := by
  obtain ⟨hover, -⟩ | ⟨-, he⟩ := execEncPut_cases b s
  · omega
  · exact he

theorem exec_encPut_overflows {s : State} {b : Byte} (h : s.cfg.bufSize < s.teSize.toNat + (s.putBytes b).length) :
    exec (.encPut b) s = .next (teDiscard s) := by
  obtain ⟨-, he⟩ | ⟨hfit, -⟩ := execEncPut_cases b s
  · exact he
  · omega

theorem exec_encEnd_fits {s : State} (h : s.teSize.toNat + s.endBytes.length ≤ s.cfg.bufSize) :
    exec .encEnd s = .next (teEmit (s.teAppend s.endBytes)) := by
  obtain ⟨hover, -⟩ | ⟨-, he⟩ := execEncEnd_cases s
  · omega
  · exact he

theorem exec_encEnd_overflows {s : State} (h : s.cfg.bufSize < s.teSize.toNat + s.endBytes.length) :
    exec .encEnd s = .next (teDiscard s) := by
  obtain ⟨-, he⟩ | ⟨hfit, -⟩ := execEncEnd_cases s
  · exact he
  · omega

/-- Closing a frame overflows at a full buffer only: an open frame needs one byte more, and the three bytes of an empty
frame fit every build (R216). -/
theorem endBytes_overflow_iff {s : State} (h : s.teSize.toNat ≤ s.cfg.bufSize) :
    s.cfg.bufSize < s.teSize.toNat + s.endBytes.length ↔ s.teSize.toNat = s.cfg.bufSize := by
  have hfour := s.cfg.four_le
  by_cases hopen : s.teSize = 0
  · have hlen : s.endBytes.length = 3 := by rw [State.endBytes, State.tePreamble_of_empty hopen]; rfl
    have hzero : s.teSize.toNat = 0 := by rw [hopen]; rfl
    omega
  · have hlen : s.endBytes.length = 1 := by rw [State.endBytes, State.tePreamble_of_open hopen]; rfl
    omega

/-- An emission written out: the event, the response, and no frame open (R215). -/
theorem teEmit_eq (s : State) :
    teEmit s = { s with busy := false, teSize := 0, trace := s.trace ++ [.txFrame s.teFrame, answeredOk] } := by
  rw [List.append_cons]
  rfl

/-- Settles O16: the append that fits, and its rules. -/
theorem encPutAppendsTheEscapedByte : Obligations.EncPutAppendsTheEscapedByte := by
  intro s b add hfit
  exact ⟨_, exec_encPut_fits hfit, rfl, toNat_count_of_le s.cfg hfit, State.teFrame_teAppend hfit,
    fun a ha => Memory.byte_append_outside .te s.teBuf s.teSize.toNat add ha⟩

/-- Settles O17. -/
theorem encPutOverflowDiscardsTheFrame : Obligations.EncPutOverflowDiscardsTheFrame :=
  fun _ _ hover => exec_encPut_overflows hover

/-- Settles O18: the closing bytes are appended, and the frame emitted is the one they close. -/
theorem encEndEmitsTheFrame : Obligations.EncEndEmitsTheFrame := by
  intro s add hfit
  refine ⟨_, exec_encEnd_fits hfit, ?_, fun a ha => Memory.byte_append_outside .te s.teBuf s.teSize.toNat add ha⟩
  rw [teEmit_eq, ← State.teFrame_teAppend hfit]
  rfl

/-- Settles O19: the closing bytes do not fit at a full buffer only, and are then discarded with the frame. -/
theorem encEndOverflowsOnlyAtAFullBuffer : Obligations.EncEndOverflowsOnlyAtAFullBuffer := fun _ hbound =>
  ⟨endBytes_overflow_iff hbound, fun hfull => exec_encEnd_overflows ((endBytes_overflow_iff hbound).2 hfull)⟩

/-! ### One encoder command after another -/

/-- Performing the commands `is` leads from `s` to `t` and adds `new` to the trace. -/
structure Performs (is : List Instr) (new : List TraceItem) (s t : State) : Prop where
  run   : execAll is s = .next t
  trace : t.trace = s.trace ++ new
  cfg   : t.cfg = s.cfg

theorem Performs.single {i : Instr} {new : List TraceItem} {s t : State} (he : exec i s = .next t)
    (htrace : t.trace = s.trace ++ new) (hcfg : t.cfg = s.cfg) : Performs [i] new s t :=
  ⟨execAll_cons he, htrace, hcfg⟩

theorem Performs.append {is js : List Instr} {new more : List TraceItem} {s u t : State} (h : Performs is new s u)
    (h' : Performs js more u t) : Performs (is ++ js) (new ++ more) s t where
  run := (execAll_append h.run).trans h'.run
  trace := by rw [h'.trace, h.trace, List.append_assoc]
  cfg := h'.cfg.trans h.cfg

/-- TXI's frame with its preamble: the frame built so far, or the preamble that the next command puts where no frame is
open (R212). -/
def State.teOpened (s : State) : List Byte := s.teFrame ++ s.tePreamble

theorem State.teOpened_of_empty {s : State} (h : s.teSize = 0) : s.teOpened = preamble := by
  rw [State.teOpened, State.tePreamble_of_empty h]
  simp [State.teFrame, h]

theorem State.teOpened_of_open {s : State} (h : s.teSize ≠ 0) : s.teOpened = s.teFrame := by
  rw [State.teOpened, State.tePreamble_of_open h, List.append_nil]

/-- The size a command tests is that of the opened frame with the command's own bytes `w`. -/
theorem State.length_teOpened_append (s : State) (w : List Byte) :
    (s.teOpened ++ w).length = s.teSize.toNat + (s.tePreamble ++ w).length := by
  simp [State.teOpened]

/-- A command's bytes that fit go to the end of the opened frame. -/
theorem State.teFrame_teAppend_opened {s : State} {w : List Byte} (h : (s.teOpened ++ w).length ≤ s.cfg.bufSize) :
    (s.teAppend (s.tePreamble ++ w)).teFrame = s.teOpened ++ w := by
  rw [State.length_teOpened_append] at h
  rw [State.teFrame_teAppend h, State.teOpened, List.append_assoc]

/-- A put that fits is answered OK and appends the byte's escape to the opened frame. -/
theorem performs_put_fits {s : State} {b : Byte} (h : (s.teOpened ++ esc b).length ≤ s.cfg.bufSize) :
    ∃ t, Performs [.encPut b] [answeredOk] s t ∧ t.teOpened = s.teOpened ++ esc b := by
  have hframe := State.teFrame_teAppend_opened h
  have hopen : (s.teAppend (s.putBytes b)).teSize ≠ 0 := by
    intro hzero
    have hlen : (s.teOpened ++ esc b).length = 0 := by
      rw [← hframe, State.length_teFrame]
      exact congrArg BitVec.toNat hzero
    exact esc_ne_nil b (List.append_eq_nil_iff.1 (List.length_eq_zero_iff.1 hlen)).2
  rw [State.length_teOpened_append] at h
  exact ⟨_, .single (exec_encPut_fits h) rfl rfl, (State.teOpened_of_open hopen).trans hframe⟩

/-- A put that does not fit is answered BUFFER_OVERFLOW and leaves no frame open. -/
theorem performs_put_overflows {s : State} {b : Byte} (h : s.cfg.bufSize < (s.teOpened ++ esc b).length) :
    ∃ t, Performs [.encPut b] [answered 0x30000000 [] none] s t ∧ t.teSize = 0 := by
  rw [State.length_teOpened_append] at h
  exact ⟨_, .single (exec_encPut_overflows h) rfl rfl, rfl⟩

/-- An end that fits emits the opened frame with the closing END and leaves no frame open. -/
theorem performs_end_fits {s : State} (h : (s.teOpened ++ [0xC0]).length ≤ s.cfg.bufSize) :
    ∃ t, Performs [.encEnd] [.txFrame (s.teOpened ++ [0xC0]), answeredOk] s t ∧ t.teSize = 0 := by
  rw [← State.teFrame_teAppend_opened h]
  rw [State.length_teOpened_append] at h
  exact ⟨_, .single (exec_encEnd_fits h) (by rw [teEmit_eq]; rfl) rfl, rfl⟩

/-- An end that does not fit is answered BUFFER_OVERFLOW and leaves no frame open. -/
theorem performs_end_overflows {s : State} (h : s.cfg.bufSize < (s.teOpened ++ [0xC0]).length) :
    ∃ t, Performs [.encEnd] [answered 0x30000000 [] none] s t ∧ t.teSize = 0 := by
  rw [State.length_teOpened_append] at h
  exact ⟨_, .single (exec_encEnd_overflows h) rfl rfl, rfl⟩

/-! ### A payload put byte by byte and closed (R220) -/

/-- The commands that put a payload byte by byte and close it. -/
def putsThenEnd (p : List Byte) : List Instr := p.map .encPut ++ [.encEnd]

/-- With no frame open, a payload's wire frame is the opened frame, the escaped payload and END. -/
theorem frame_eq_teOpened_append {s : State} (h : s.teSize = 0) (p : List Byte) :
    frame p = s.teOpened ++ (escAll p ++ [0xC0]) := by
  rw [State.teOpened_of_empty h]
  rfl

/-- A payload whose escape and closing END fit goes out in one frame, behind what the opened frame held. -/
theorem putsThenEnd_fits {s : State} {p : List Byte}
    (h : (s.teOpened ++ (escAll p ++ [0xC0])).length ≤ s.cfg.bufSize) :
    ∃ t, Performs (putsThenEnd p)
        (List.replicate p.length answeredOk ++ [.txFrame (s.teOpened ++ (escAll p ++ [0xC0])), answeredOk]) s t ∧
      t.teSize = 0 := by
  induction p generalizing s with
  | nil => exact performs_end_fits h
  | cons b p ih =>
    have hsplit : s.teOpened ++ (escAll (b :: p) ++ [0xC0]) = s.teOpened ++ esc b ++ (escAll p ++ [0xC0]) := by
      simp [escAll]
    rw [hsplit] at h ⊢
    obtain ⟨u, hput, hopened⟩ := performs_put_fits (s := s) (b := b) (by rw [List.length_append] at h; omega)
    rw [← hput.cfg, ← hopened] at h
    obtain ⟨t, hrest, hsize⟩ := ih h
    rw [hopened] at hrest
    exact ⟨t, hput.append hrest, hsize⟩

/-- With no frame open, a payload whose wire frame fits goes out in its wire frame. -/
theorem putsThenEnd_emits_frame {s : State} {p : List Byte} (hsize : s.teSize = 0)
    (hfit : (frame p).length ≤ s.cfg.bufSize) :
    ∃ t, Performs (putsThenEnd p) (List.replicate p.length answeredOk ++ [.txFrame (frame p), answeredOk]) s t ∧
      t.teSize = 0 := by
  rw [frame_eq_teOpened_append hsize] at hfit ⊢
  exact putsThenEnd_fits hfit

/-- A payload whose escape and closing END do not fit meets an overflow: the commands before the first one are answered
OK, and it leaves no frame open. -/
theorem putsThenEnd_first_overflow {s : State} {p : List Byte}
    (h : s.cfg.bufSize < (s.teOpened ++ (escAll p ++ [0xC0])).length) :
    ∃ k ≤ p.length, ∃ t, Performs ((putsThenEnd p).take (k + 1))
        (List.replicate k answeredOk ++ [answered 0x30000000 [] none]) s t ∧ t.teSize = 0 := by
  induction p generalizing s with
  | nil => exact ⟨0, Nat.le_refl 0, performs_end_overflows h⟩
  | cons b p ih =>
    by_cases hput : (s.teOpened ++ esc b).length ≤ s.cfg.bufSize
    · obtain ⟨u, hfirst, hopened⟩ := performs_put_fits hput
      have hover : u.cfg.bufSize < (u.teOpened ++ (escAll p ++ [0xC0])).length := by
        rw [hfirst.cfg, hopened]
        simpa [escAll] using h
      obtain ⟨k, hk, t, hrest, hsize⟩ := ih hover
      exact ⟨k + 1, Nat.succ_le_succ hk, t, hfirst.append hrest, hsize⟩
    · exact ⟨0, Nat.zero_le _, performs_put_overflows (Nat.lt_of_not_le hput)⟩

/-- Behind an overflow at payload byte `k` stand the commands for the payload bytes behind it. -/
theorem putsThenEnd_eq_take_append {k : Nat} {p : List Byte} (h : k < p.length) :
    putsThenEnd p = (putsThenEnd p).take (k + 1) ++ putsThenEnd (p.drop (k + 1)) := by
  have hdrop : (putsThenEnd p).drop (k + 1) = putsThenEnd (p.drop (k + 1)) := by
    rw [putsThenEnd, List.drop_append_of_le_length (by simpa using h), ← List.map_drop]
    rfl
  rw [← hdrop, List.take_append_drop]

/-- The commands always complete, and no frame they emit is longer than BUF_SIZE. -/
theorem putsThenEnd_emits_within_bufSize (p : List Byte) (s : State) :
    ∃ t new, Performs (putsThenEnd p) new s t ∧ ∀ w, .txFrame w ∈ new → w.length ≤ s.cfg.bufSize := by
  induction p generalizing s with
  | nil =>
    by_cases hend : (s.teOpened ++ [0xC0]).length ≤ s.cfg.bufSize
    · obtain ⟨t, ht, -⟩ := performs_end_fits hend
      refine ⟨t, _, ht, fun w hw => ?_⟩
      obtain rfl : w = s.teOpened ++ [0xC0] := by simpa using hw
      exact hend
    · obtain ⟨t, ht, -⟩ := performs_end_overflows (Nat.lt_of_not_le hend)
      exact ⟨t, _, ht, by simp⟩
  | cons b p ih =>
    have hput : ∃ u r, Performs [.encPut b] [.response r] s u := by
      by_cases hput : (s.teOpened ++ esc b).length ≤ s.cfg.bufSize
      · exact (performs_put_fits hput).imp fun _ hu => ⟨_, hu.1⟩
      · exact (performs_put_overflows (Nat.lt_of_not_le hput)).imp fun _ hu => ⟨_, hu.1⟩
    obtain ⟨u, r, hfirst⟩ := hput
    obtain ⟨t, new, hrest, hnew⟩ := ih u
    refine ⟨t, _, hfirst.append hrest, fun w hw => ?_⟩
    rw [← hfirst.cfg]
    exact hnew w (by simpa using hw)

/-- Settles O20: the opened frame grows by each byte's escape until the END closes it or the first overflow discards it,
which leaves the rest of the payload to a frame of its own. -/
theorem incrementalEncoderEqualsBlockEncoder : Obligations.IncrementalEncoderEqualsBlockEncoder := by
  intro s p hsize
  refine ⟨fun hfit => ?fits, fun hover => ⟨?overflow, ?never⟩⟩
  case fits =>
    obtain ⟨t, ht, hsize'⟩ := putsThenEnd_emits_frame hsize hfit
    exact ⟨t, ht.run, hsize', by rw [ht.trace, List.append_assoc]⟩
  case overflow =>
    obtain ⟨k, hk, t, ht, hsize'⟩ := putsThenEnd_first_overflow (frame_eq_teOpened_append hsize p ▸ hover)
    refine ⟨k, hk, t, ht.run, hsize', by rw [ht.trace, List.append_assoc], fun hlt hrest => ?_⟩
    obtain ⟨u, hu, hsize''⟩ := putsThenEnd_emits_frame hsize' (ht.cfg ▸ hrest)
    refine ⟨u, ?_, hsize'', by rw [hu.trace, List.length_drop, List.append_assoc]⟩
    exact (congrArg (execAll · s) (putsThenEnd_eq_take_append hlt)).trans (ht.append hu).run
  case never =>
    obtain ⟨t, new, ht, hnew⟩ := putsThenEnd_emits_within_bufSize p s
    exact ⟨t, new, ht.run, ht.trace, fun hmem => Nat.not_le_of_lt hover (hnew _ hmem)⟩

end Sys2Proof.Machine
end

section
/-! PROOFS. The statements on reset and on broken duties (70_reset_and_hazards.md R260 to R262, R269): a step before a
later reset, a reset during a DEC_BLOCK, the state before the first reset, and the runs that are refused. -/

namespace Sys2Proof.Machine

/-! ### No meaning reads the resets to come (R277) -/

/-- The state with these resets to come. -/
def State.withResets (resets : List Nat) (s : State) : State := { s with resetIn := resets }

section

variable (resets : List Nat) (s : State)

theorem feedAction_withResets (a : Action) :
    feedAction a (s.withResets resets) = (feedAction a s).withResets resets := by
  cases a with
  | boundary =>
    change feedBoundary _ = (feedBoundary s).withResets resets
    by_cases h : Config.minFrame ≤ s.idSize.toNat
    · rw [feedBoundary_deliver h, feedBoundary_deliver (s := s.withResets resets) h]
      rfl
    · rw [feedBoundary_drop h, feedBoundary_drop (s := s.withResets resets) h]
      rfl
  | enterEsc => rfl
  | store v => exact ite_eq_apply_ite Iff.rfl (fun _ => rfl) fun _ => rfl
  | badEscape => rfl

theorem putAction_withResets (v : List Byte) :
    putAction v (s.withResets resets) = (putAction v s).withResets resets :=
  ite_eq_apply_ite Iff.rfl (fun _ => rfl) fun _ => rfl

theorem endAction_withResets (v : List Byte) :
    endAction v (s.withResets resets) = (endAction v s).withResets resets :=
  ite_eq_apply_ite Iff.rfl (fun _ => rfl) fun _ => rfl

theorem execEncBlock_withResets (p : List Byte) :
    execEncBlock p (s.withResets resets) = mapNext (State.withResets resets) (execEncBlock p s) := by
  refine ite_eq_apply_ite Iff.rfl (fun _ => rfl) fun _ => ?write
  case write =>
    have hanswers : (s.withResets resets).writeAnswers = s.writeAnswers := rfl
    simp only [State.chanWrite, hanswers]
    cases s.writeAnswers with
    | nil => rfl
    | cons a later => exact ite_eq_apply_ite Iff.rfl (fun _ => rfl) fun _ => rfl

theorem exec_withResets (i : Instr) :
    exec i (s.withResets resets) = mapNext (State.withResets resets) (exec i s) := by
  cases i with
  | decFeed c =>
    change execDecFeed c _ = mapNext _ (execDecFeed c s)
    rw [execDecFeed_eq, execDecFeed_eq]
    exact congrArg Host.Outcome.next (feedAction_withResets resets s _)
  | encPut b =>
    change execEncPut b _ = mapNext _ (execEncPut b s)
    rw [execEncPut_eq, execEncPut_eq]
    exact congrArg Host.Outcome.next (putAction_withResets resets s _)
  | encEnd =>
    change execEncEnd _ = mapNext _ (execEncEnd s)
    rw [execEncEnd_eq, execEncEnd_eq]
    exact congrArg Host.Outcome.next (endAction_withResets resets s _)
  | encBlock len p => exact execEncBlock_withResets resets s p
  | decBlock cap hint => rfl

theorem acceptCommand_withResets :
    acceptCommand (s.withResets resets) = mapNext (State.withResets resets) (acceptCommand s) := by
  have hport : (s.withResets resets).port = s.port := rfl
  simp only [acceptCommand, hport]
  cases decode s.port with
  | nothing => rfl
  | command i rest => exact exec_withResets resets { s with port := rest } i
  | illegal w rest => rfl
  | strayByte b => rfl
  | payloadMissing len => rfl

theorem scanAction_withResets (a : Action) :
    scanAction a (s.withResets resets) = (scanAction a s).withResets resets := by
  cases a with
  | boundary => exact ite_eq_apply_ite Iff.rfl (fun _ => rfl) fun _ => rfl
  | enterEsc => rfl
  | store v => exact ite_eq_apply_ite Iff.rfl (fun _ => rfl) fun _ => rfl
  | badEscape => rfl

theorem scanByte_withResets (c : Byte) :
    scanByte c (s.withResets resets) = (scanByte c s).withResets resets := by
  cases hsync : s.bdSynced with
  | false => rw [scanByte_hunting c hsync, scanByte_hunting (s := s.withResets resets) c hsync]; rfl
  | true =>
    rw [scanByte_synced c hsync, scanByte_synced (s := s.withResets resets) c hsync]
    exact scanAction_withResets resets s _

theorem State.nextRead_withResets (h : Count) :
    (s.withResets resets).nextRead h = ((s.nextRead h).1, (s.nextRead h).2.withResets resets) := by
  cases hr : s.readAnswers with
  | cons a later => simp [State.nextRead, State.withResets, hr]
  | nil => cases hl : s.laterReads <;> simp [State.nextRead, State.withResets, State.freeRead, hr, hl]

theorem decRead_withResets :
    decRead (s.withResets resets) = mapNext (State.withResets resets) (decRead s) := by
  refine ite_eq_apply_ite Iff.rfl (fun _ => rfl) fun _ => ?asks
  case asks =>
    have hnext := State.nextRead_withResets resets s s.opHint
    have hhint : (s.withResets resets).opHint = s.opHint := rfl
    simp only [hhint, hnext]
    cases (s.nextRead s.opHint).1 with
    | none => rfl
    | some a =>
      refine ite_eq_apply_ite Iff.rfl (fun _ => ?answered) fun _ => rfl
      case answered =>
        cases a.err with
        | some e => rfl
        | none => exact ite_eq_apply_ite Iff.rfl (fun _ => rfl) fun _ => rfl

theorem decMicroStep_withResets :
    decMicroStep (s.withResets resets) = mapNext (State.withResets resets) (decMicroStep s) := by
  cases hc : s.bdCache with
  | nil =>
    have hread := decRead_withResets resets s
    simpa [decMicroStep, hc, State.withResets] using hread
  | cons c rest =>
    rw [decMicroStep_scan hc, decMicroStep_scan (s := s.withResets resets) hc]
    exact congrArg Host.Outcome.next (scanByte_withResets resets { s with bdCache := rest } c)

/-- What a step does with the reset input not asserted does not depend on when a reset will be. -/
theorem advance_withResets :
    advance (s.withResets resets) = mapNext (State.withResets resets) (advance s) :=
  ite_eq_apply_ite Iff.rfl
    (fun _ => ite_eq_apply_ite Iff.rfl (fun _ => decMicroStep_withResets resets s)
      fun _ => acceptCommand_withResets resets s)
    fun _ => rfl

end

/-- Settles O43: the step is the same `advance` on both sides, which does not read the resets to come. -/
theorem stepBeforeALaterReset : Obligations.StepBeforeALaterReset := by
  intro s n later hlater
  calc step s = advance { s with resetIn := n :: later } := step_before_reset hlater
    _ = mapNext (State.withResets (n :: later)) (advance { s with resetIn := [] }) :=
      advance_withResets (n :: later) { s with resetIn := [] }

/-! ### The reset itself, and the state before the first one -/

/-- Settles O47: the state a reset leaves is idle and running where no further reset is to come. -/
theorem resetAbandonsADecBlock : Obligations.ResetAbandonsADecBlock := by
  intro s later _ hreset
  refine ⟨_, step_reset hreset, rfl, rfl, rfl, rfl, rfl, fun hlater => ?accepts⟩
  case accepts => exact step_running ⟨rfl, hlater⟩

/-- With no reset since power-on a step that is not the reset itself is refused (R261). -/
theorem advance_before_first_reset {s : State} (h : s.hasReset = false) : advance s = .refused .notResetYet := by
  simp [advance, h]

/-- Settles O48, by the reset input: none to come, or one that is not due yet. -/
theorem nothingRunsBeforeTheFirstReset : Obligations.NothingRunsBeforeTheFirstReset := by
  intro s hnone hdue
  match hr : s.resetIn with
  | [] =>
    have hstep : step s = advance s := by simp only [step, cycle, hr]
    exact hstep.trans (advance_before_first_reset hnone)
  | 0 :: later => exact absurd (by rw [hr]; rfl) hdue
  | (n + 1) :: later => exact (step_before_reset hr).trans (advance_before_first_reset hnone)

/-! ### Broken duties (R15, R269) -/

/-- A legal ENC_BLOCK word followed by fewer than LEN bytes, at a word or at the end of the port, is no command
(R89). -/
theorem decode_payload_short {w : Word} {len : BitVec 16} {given : List Byte} {rest : List PortItem}
    (hw : decodeWord w = .encBlock len) (hshort : given.length < len.toNat)
    (hrest : rest = [] ∨ ∃ v more, rest = .word v :: more) :
    decode (.word w :: given.map .byte ++ rest) = .payloadMissing len := by
  simp [decode, decodeAt, hw, takePayload_short given rest hshort hrest]

/-- A read answered with more bytes than the hint is refused (R15). -/
theorem decMicroStep_over_hint {s : State} {a : ReadAnswer} (hcache : s.bdCache = []) (hpending : s.readPending = false)
    (hanswer : (s.nextRead s.opHint).1 = some a) (hover : s.opHint.toNat < a.chunk.length) :
    decMicroStep s = .refused .readLongerThanHint := by
  rcases decMicroStep_cases s with ⟨c, rest, hcons, -⟩ | ⟨-, ⟨hp, -⟩ | ⟨-, ⟨hnone, -⟩ | ⟨b, hb, ⟨-, hm⟩ | ⟨hle, -⟩⟩⟩⟩
  · exact nomatch hcache.symm.trans hcons
  · exact nomatch hpending.symm.trans hp
  · exact nomatch hanswer.symm.trans hnone
  · exact hm
  · cases hanswer.symm.trans hb
    exact absurd hover (Nat.not_lt.2 hle)

/-- A write answered with a count above the bytes given is refused (R15). -/
theorem execEncBlock_over_count {p : List Byte} {s : State} {a : WriteAnswer} {later : List WriteAnswer}
    (hfit : (frame p).length ≤ s.cfg.bufSize) (hanswer : s.writeAnswers = a :: later) (hover : (frame p).length < a.n) :
    execEncBlock p s = .refused .writeCountTooLarge := by
  rcases execEncBlock_cases p s with ⟨hlong, -⟩ | ⟨-, ⟨hnil, -⟩ | ⟨b, more, hb, ⟨-, he⟩ | ⟨hle, -⟩⟩⟩
  · exact absurd hfit (Nat.not_le.2 hlong)
  · exact nomatch hanswer.symm.trans hnil
  · exact he
  · cases hanswer.symm.trans hb
    exact absurd hover (Nat.not_lt.2 hle)

/-- Settles O45: two duties at an idle machine's port, one at a read and one at a write. -/
theorem brokenDutiesAreRefused : Obligations.BrokenDutiesAreRefused := by
  refine ⟨fun s b rest hrun hidle hport => ?stray, fun s w len given rest hrun hidle hw hshort hrest hport => ?short,
    fun s a hrun hbusy hcache hpending hanswer hover => ?read, fun s len p a later hfit hanswer hover => ?write⟩
  case stray => simp [step_running hrun, hidle, acceptCommand, hport, decode]
  case short =>
    have hmissing : decode s.port = .payloadMissing len := hport ▸ decode_payload_short hw hshort hrest
    simp [step_running hrun, hidle, acceptCommand, hmissing]
  case read => exact (step_busy hrun hbusy).trans (decMicroStep_over_hint hcache hpending hanswer hover)
  case write => exact execEncBlock_over_count hfit hanswer hover

end Sys2Proof.Machine
end

section
/-! PROOFS. The statement on two wire frames in a row (70_reset_and_hazards.md R267): the verdicts of their bytes,
whatever the cut, and the run in which one read brings them all. -/

namespace Sys2Proof.Machine

/-! ### The verdicts of two wire frames -/

/-- Fewer capacities ask for less. -/
theorem Yields.mono {K L : Nat → Prop} {r r' : RxbView} {cs : List Byte} {vs : List Verdict}
    (h : Yields K r cs vs r') (hKL : ∀ cap, L cap → K cap) : Yields L r cs vs r' := by
  induction h with
  | done r => exact .done r
  | quiet scan more _ ih => exact .quiet (fun cap hcap => scan cap (hKL cap hcap)) more ih
  | verdict scan _ ih => exact .verdict (fun cap hcap => scan cap (hKL cap hcap)) ih

theorem Yields.append {K : Nat → Prop} {r r₁ r' : RxbView} {cs ds : List Byte} {vs ws : List Verdict}
    (h : Yields K r cs vs r₁) (h' : Yields K r₁ ds ws r') : Yields K r (cs ++ ds) (vs ++ ws) r' := by
  induction h with
  | done r => exact h'
  | quiet scan more _ ih => exact .quiet scan (by simp [more]) (ih h')
  | verdict scan _ ih => exact .verdict scan (ih h')

/-- An END in NORMAL returns what is held, within the capacity (R164). -/
theorem RxbView.scan_end {cap : Nat} {held : List Byte} (h : held.length ≤ cap) :
    RxbView.scan cap byteEnd (.holding held) = (.holding [], some (.frame held)) := by
  simp [RxbView.scan, RxbView.act, escStep, Nat.not_lt.2 h]

/-- Synchronised with nothing held, an escaped payload and its END give the payload's frame. -/
theorem yields_escAll_end (p : List Byte) :
    Yields (p.length ≤ ·) (.holding []) (escAll p ++ [byteEnd]) [.frame p] (.holding []) :=
  .escAll_append (by simp) (by simp) (.verdict (fun _ hcap => RxbView.scan_end hcap) (.done _))

/-- Synchronised with nothing held, the preamble is a frame of its own, of its FLUSH (R267). -/
theorem yields_preamble : Yields (1 ≤ ·) (.holding []) preamble [.frame [0xFF]] (.holding []) :=
  .quiet (fun _ hcap => RxbView.scan_store rfl hcap) (by simp)
    (.verdict (fun _ hcap => RxbView.scan_end hcap) (.done _))

/-- Hunting, NORMAL and with nothing held, as after a reset (R43). -/
abbrev RxbView.hunting : RxbView := ⟨false, .normal, []⟩

/-- The capacities that have room for two payloads, and for the FLUSH between them. -/
structure RoomFor (p q : List Byte) (cap : Nat) : Prop where
  flush  : 1 ≤ cap
  first  : p.length ≤ cap
  second : q.length ≤ cap

theorem RoomFor.min {p q : List Byte} {m n : Nat} (hm : RoomFor p q m) (hn : RoomFor p q n) : RoomFor p q (min m n) :=
  ⟨Nat.le_min.2 ⟨hm.flush, hn.flush⟩, Nat.le_min.2 ⟨hm.first, hn.first⟩, Nat.le_min.2 ⟨hm.second, hn.second⟩⟩

/-- A build that can cache both wire frames has room for both payloads. -/
theorem RoomFor.of_length_frames {p q : List Byte} {n : Nat} (h : (frame p ++ frame q).length ≤ n) : RoomFor p q n := by
  rw [List.length_append, length_frame_eq_counts, length_frame_eq_counts] at h
  exact ⟨by omega, by omega, by omega⟩

/-- From hunting, two wire frames give the first payload, the second frame's FLUSH and the second payload (R267). -/
theorem yields_two_frames (p q : List Byte) :
    Yields (RoomFor p q) .hunting (frame p ++ frame q) [.frame p, .frame [0xFF], .frame q] (.holding []) := by
  have first := (yields_frame p).mono fun cap (h : RoomFor p q cap) => h.first
  have flush := yields_preamble.mono fun cap (h : RoomFor p q cap) => h.flush
  have second := (yields_escAll_end q).mono fun cap (h : RoomFor p q cap) => h.second
  exact first.append (flush.append second)

/-! ### In any chunks -/

/-- As `Waiting.gives_all`, with the state it leaves: idle, and with the bytes behind the verdicts still to come. -/
theorem Waiting.gives_all_and_waits {K : Nat → Prop} {vs : List Verdict} {r' : RxbView} {post : List Byte}
    {ds : List (Count × Count)} {s : State} {pre : List Byte} (h : Waiting K ds s) (hstream : s.stream = pre ++ post)
    (hy : Yields K s.rxb pre vs r') (hmore : vs.length + s.interruptions ≤ ds.length) :
    ∃ t new es, Reaches s t ∧ Waiting K es t ∧ t.stream = post ∧ t.trace = s.trace ++ new ∧
      verdicts new = vs.map Verdict.said := by
  induction vs generalizing s ds pre with
  | nil =>
    obtain ⟨rfl, -⟩ := hy.eq_of_nil
    exact ⟨s, [], ds, ⟨0, rfl⟩, h, hstream, (List.append_nil _).symm, rfl⟩
  | cons v vs ih =>
    rw [List.length_cons] at hmore
    obtain ⟨t, new, cs, hgives, hleft, hy'⟩ := h.gives hstream hy (by omega)
    have hspent := hgives.spent
    obtain ⟨u, new', es, hreaches, hwaiting, hpost, htrace, hsaid⟩ :=
      ih hgives.waiting hleft hy' (by rw [List.length_drop]; omega)
    refine ⟨u, new ++ [.response (v.response t.cacheCount)] ++ new', es, hgives.reaches.trans hreaches, hwaiting, hpost,
      ?_, ?_⟩
    · rw [htrace, hgives.trace]
      simp only [List.append_assoc]
    · rw [verdicts_append, verdicts_append, verdicts_between hgives.between, verdicts_response, hsaid]
      rfl

/-! ### In one chunk -/

/-- The machine has these DEC_BLOCK commands on its port, each under a capacity of `K`, these bytes in its cache and
this view of RXB. -/
structure Caches (K : Nat → Prop) (ds : List (Count × Count)) (cache : List Byte) (r : RxbView) (s : State) : Prop where
  running  : s.running
  port     : s.port = decBlocks ds
  capacity : ∀ d ∈ ds, K (min d.1.toNat s.cfg.bufSize)
  cache    : s.bdCache = cache
  view     : s.rxb = r

/-- The first command, once accepted, is in progress under its capacity. -/
theorem Caches.enter {K : Nat → Prop} {d : Count × Count} {ds : List (Count × Count)} {cache : List Byte} {r : RxbView}
    {s : State} (h : Caches K (d :: ds) cache r s) :
    Caches K ds cache r (s.entered d ds) ∧ K (s.entered d ds).opCap.toNat := by
  refine ⟨⟨h.running, rfl, fun e he => h.capacity e (List.mem_cons_of_mem d he), h.cache, h.view⟩, ?_⟩
  change K (clampOperand s.cfg d.1).toNat
  rw [toNat_clampOperand]
  exact h.capacity d List.mem_cons_self

/-- A cached byte scanned is a byte scanned on the view. -/
theorem Caches.scan {K : Nat → Prop} {ds : List (Count × Count)} {c : Byte} {rest : List Byte} {r r₁ : RxbView}
    {o : Option Verdict} {s : State} (h : Caches K ds (c :: rest) r s) (hbusy : s.busy = true)
    (hscan : r.scan s.opCap.toNat c = (r₁, o)) :
    ∃ u, step s = .next u ∧ Caches K ds rest r₁ u ∧ u.opCap = s.opCap ∧ u.busy = o.isNone ∧
      u.trace = s.trace ++ Verdict.items (count rest.length) o := by
  obtain ⟨hview, hb, htrace⟩ := scanByte_cached_rxb c rest s
  rw [h.view, hscan] at hview hb htrace
  refine ⟨_, step_scan h.running hbusy h.cache, ?_, by simp, by simpa [hbusy] using hb, htrace⟩
  exact ⟨⟨by simp [h.running.1], by simp [h.running.2]⟩, by simp [h.port], by simpa using h.capacity, by simp, hview⟩

/-- A DEC_BLOCK in progress that has the bytes of a verdict cached ends with it, and reads nothing. -/
theorem Caches.ends {K : Nat → Prop} {ds : List (Count × Count)} {pre post : List Byte} {r r' : RxbView} {v : Verdict}
    {s : State} (h : Caches K ds (pre ++ post) r s) (hbusy : s.busy = true) (hcap : K s.opCap.toNat)
    (hy : Yields K r pre [v] r') :
    ∃ t, Reaches s t ∧ Caches K ds post r' t ∧ t.busy = false ∧
      t.trace = s.trace ++ [.response (v.response (count post.length))] := by
  induction pre generalizing s r with
  | nil => exact absurd rfl hy.ne_nil
  | cons c cs ih =>
    cases hy with
    | quiet scan more rest =>
      obtain ⟨u, hstep, hu, hcap', hb, htrace⟩ := h.scan hbusy (scan _ hcap)
      obtain ⟨t, hreaches, ht, hidle, htrace'⟩ := ih hu hb (hcap' ▸ hcap) rest
      exact ⟨t, .of_step hstep hreaches, ht, hidle, by rw [htrace', htrace]; simp [Verdict.items]⟩
    | verdict scan rest =>
      obtain ⟨rfl, rfl⟩ := rest.eq_of_nil
      obtain ⟨u, hstep, hu, -, hb, htrace⟩ := h.scan hbusy (scan _ hcap)
      exact ⟨u, .of_step hstep ⟨0, rfl⟩, hu, hb, htrace⟩

/-- With the bytes of a verdict cached, the first command of an idle machine ends with it. -/
theorem Caches.gives {K : Nat → Prop} {d : Count × Count} {ds : List (Count × Count)} {pre post : List Byte}
    {r r' : RxbView} {v : Verdict} {s : State} (h : Caches K (d :: ds) (pre ++ post) r s) (hidle : s.busy = false)
    (hy : Yields K r pre [v] r') :
    ∃ t, Reaches s t ∧ Caches K ds post r' t ∧ t.busy = false ∧
      t.trace = s.trace ++ [.response (v.response (count post.length))] := by
  obtain ⟨hentered, hcap⟩ := h.enter
  obtain ⟨t, hreaches, ht⟩ := hentered.ends rfl hcap hy
  exact ⟨t, .of_step (step_entered h.running hidle h.port) hreaches, ht⟩

/-- With an empty cache the first command of an idle machine reads, and a listed answer that brings bytes fills the
cache. -/
theorem Caches.fill {K : Nat → Prop} {d : Count × Count} {ds : List (Count × Count)} {r : RxbView} {s : State}
    {a : ReadAnswer} {later : List (Option ReadAnswer)} (h : Caches K (d :: ds) [] r s) (hidle : s.busy = false)
    (hpending : s.readPending = false) (hlisted : s.readAnswers = some a :: later)
    (hbrings : BringsBytes (s.entered d ds).opHint (some a)) :
    ∃ u, Reaches s u ∧ Caches K ds a.chunk r u ∧ u.busy = true ∧ K u.opCap.toNat ∧
      u.trace = s.trace ++ [.chanRead (s.entered d ds).opHint, .readAnswer a.chunk a.err] := by
  obtain ⟨hentered, hcap⟩ := h.enter
  have hnext : ((s.entered d ds).nextRead (s.entered d ds).opHint).1 = some a := by
    rw [State.nextRead_listed (s := s.entered d ds) _ hlisted]
  obtain ⟨b, hb, -, hm⟩ := decMicroStep_brings (s := s.entered d ds) hentered.cache hpending (hnext ▸ hbrings)
  cases hb.symm.trans hnext
  have hread : step (s.entered d ds) = .next ((s.entered d ds).filled a) := (step_busy hentered.running rfl).trans hm
  refine ⟨_, .of_step (step_entered h.running hidle h.port) (.of_step hread ⟨0, rfl⟩), ?_, State.filled_busy ..,
    by simpa using hcap, State.filled_trace ..⟩
  exact ⟨⟨by simp [hentered.running.1], by simp [hentered.running.2]⟩, by simp [hentered.port],
    by simpa using hentered.capacity, by simp, by simp [hentered.view]⟩

/-- With two wire frames cached, the command in progress and the next two give their three verdicts (R267). -/
theorem Caches.ends_two_frames {p q : List Byte} {d e : Count × Count} {s : State}
    (h : Caches (RoomFor p q) [d, e] (frame p ++ frame q) .hunting s) (hbusy : s.busy = true)
    (hcap : RoomFor p q s.opCap.toNat) :
    ∃ t, Reaches s t ∧ t.finished ∧ t.trace = s.trace ++
      [.response ((Verdict.frame p).response (count (frame q).length)),
       .response ((Verdict.frame [0xFF]).response (count ((frame q).length - 2))),
       .response ((Verdict.frame q).response 0)] := by
  obtain ⟨t₁, hreaches₁, h₁, hidle₁, htrace₁⟩ := h.ends hbusy hcap ((yields_frame p).mono fun _ h => h.first)
  obtain ⟨t₂, hreaches₂, h₂, hidle₂, htrace₂⟩ := h₁.gives hidle₁ (yields_preamble.mono fun _ h => h.flush)
  rw [← List.append_nil (escAll q ++ [byteEnd])] at h₂
  obtain ⟨t₃, hreaches₃, h₃, hidle₃, htrace₃⟩ := h₂.gives hidle₂ ((yields_escAll_end q).mono fun _ h => h.second)
  refine ⟨t₃, hreaches₁.trans (hreaches₂.trans hreaches₃), ⟨hidle₃, h₃.port⟩, ?_⟩
  rw [htrace₃, htrace₂, htrace₁]
  simp [frame, preamble]

/-- Settles O39: the bytes of the two wire frames give three verdicts; cached by one read they are scanned by the three
commands, and in any chunks they come as all verdicts do. -/
theorem secondFrameIsPrecededByItsFlush : Obligations.SecondFrameIsPrecededByItsFlush := by
  intro s p q hrun hidle hpending hhunt hsize hesc
  have hview : s.rxb = .hunting := by simp [State.rxb, hhunt, hesc, State.bdFrame, hsize, RxbView.hunting]
  refine ⟨fun cap hint hcache hport hanswers hfit hone hp hq => ?oneChunk,
    fun ds hport hcaps hwithin hmore hstream => ?anyChunks⟩
  case anyChunks =>
    have hwaiting : Waiting (RoomFor p q) ds s := {
      running := hrun
      idle := hidle
      answered := hpending
      port := hport
      capacity := fun d hd => by
        obtain ⟨hone, hp, hq⟩ := hcaps d hd
        exact ⟨Nat.le_min.2 ⟨hone, Nat.le_trans (by decide) s.cfg.four_le⟩, hp, hq⟩
      within := hwithin }
    have hcommands : 3 + s.interruptions ≤ ds.length := by
      rw [Nat.add_comm]
      exact hmore
    have hyields := yields_two_frames p q
    rw [← hview] at hyields
    obtain ⟨t, new, es, ⟨n, ht⟩, hrest, hleft, htrace, hsaid⟩ :=
      hwaiting.gives_all_and_waits (hstream.trans (List.append_nil _).symm) hyields hcommands
    obtain ⟨hempty, -⟩ := List.append_eq_nil_iff.1 hleft
    exact ⟨n, t, new, ht, hrest.idle, hempty, htrace, hsaid⟩
  case oneChunk =>
    have hlength : (frame p ++ frame q).length ≤ s.cfg.bufSize := Nat.le_trans hfit (Nat.min_le_right ..)
    have hroom : RoomFor p q (min cap.toNat s.cfg.bufSize) := .min ⟨hone, hp, hq⟩ (.of_length_frames hlength)
    have hstart : Caches (RoomFor p q) [(cap, hint), (cap, hint), (cap, hint)] [] .hunting s :=
      ⟨hrun, hport, by simpa using hroom, hcache, hview⟩
    have hbrings : BringsBytes (clampOperand s.cfg hint) (some ⟨frame p ++ frame q, none⟩) :=
      ⟨_, rfl, rfl, by simp [frame, preamble], by rwa [toNat_clampOperand]⟩
    obtain ⟨u, hreaches, hu, hbusy, hcap, htrace⟩ := hstart.fill hidle hpending hanswers hbrings
    obtain ⟨t, hreaches', hfinished, htrace'⟩ := hu.ends_two_frames hbusy hcap
    obtain ⟨n, ht⟩ := hreaches.trans hreaches'
    refine ⟨n, t, clampOperand s.cfg hint, ht, hfinished, ?_⟩
    rw [htrace', htrace, List.append_assoc]
    rfl

end Sys2Proof.Machine
end
